-- ==== Sys2Proof/Word.lean ====
section
/-! DEFINITION. The words of the WT-840: what the manual treats as bits is a bit vector, what it numbers within a fixed
range is a bounded index. -/

namespace Sys2Proof

/-- One byte of a frame, a parameter list or an entry image (R161). -/
abbrev Byte := BitVec 8

/-- A reading of the timebase, in tu modulo 2^32 (R3). -/
abbrev Stamp := BitVec 32

/-- A set of key numbers 0 to 23: key `k` is a member when bit `k` is 1 (R2, R161). -/
abbrev KeySet := BitVec 24

/-- A set of blocks 0 to 23, in the same form (R161). -/
abbrev BlockSet := BitVec 24

/-- A set of engines 0 to 3: engine `e` is a member when bit `e` is 1 (R161, R173). -/
abbrev EngineSet := BitVec 4

/-- An entry image of Table Memory: its bytes in the order of R164. -/
abbrev Image := List Byte

/-- A performer slot, 0 to 7 (R1). -/
abbrev Slot := Fin 8

/-- An engine number, 0 to 3 (R99). -/
abbrev EngineId := Fin 4

/-- A voice record index, 0 to 95 (R79). -/
abbrev VoiceId := Fin 96

/-- A block of Table Memory, 0 to 23 (R121). -/
abbrev BlockId := Fin 24

end Sys2Proof
end

