-- ==== Sys2Proof/Syntax.lean ====
section
/-! DEFINITION. The commands of the block: one constructor for each row of spec/opcode_table.json, in the table's order.

A row that is a frame on an inbound link carries the low four bits of the frame's first byte and all its later bytes, the
check value among them; the high four bits are the kind, which the row fixes (R162; log entry 10). A console command
carries its tag and its parameter bytes (R163; log entry 9). -/

namespace Sys2Proof

/-- The two inbound links (section 9.1). -/
inductive Link where
  | gesture | voice
deriving DecidableEq, Repr

/-- What causes a hard reset (R179): the RESET line asserted for so many microseconds, or the supply coming on. -/
inductive ResetCause where
  | line (microseconds : Nat)
  | powerOn
deriving DecidableEq, Repr

/-- The commands of the part. -/
inductive Instr where
  | gesture (slot : BitVec 4) (rest : List Byte)
  | settleExpiry (slot : Slot)
  | attackExpiry (slot : Slot)
  | guardExpiry (slot : Slot)
  | silenceExpiry (slot : Slot)
  | phraseExpiry (slot : Slot)
  | glideStepExpiry (slot : Slot)
  | tailTimerExpiry (voice : VoiceId)
  | hello (engine : BitVec 4) (rest : List Byte)
  | tailDone (engine : BitVec 4) (rest : List Byte)
  | hold (engine : BitVec 4) (rest : List Byte)
  | go (engine : BitVec 4) (rest : List Byte)
  | quiesceAck (engine : BitVec 4) (rest : List Byte)
  | selection
  | transmitCompletion
  | command (slot : BitVec 4) (rest : List Byte)
  | commandStart
  | performerSet (tag : Byte) (params : List Byte)
  | performerEnable (tag : Byte) (params : List Byte)
  | performerDisable (tag : Byte) (params : List Byte)
  | performerRead (tag : Byte) (params : List Byte)
  | bind (tag : Byte) (params : List Byte)
  | engineSet (tag : Byte) (params : List Byte)
  | engineRead (tag : Byte) (params : List Byte)
  | voiceRead (tag : Byte) (params : List Byte)
  | arbiterSet (tag : Byte) (params : List Byte)
  | arbiterRead (tag : Byte) (params : List Byte)
  | tableErase (tag : Byte) (params : List Byte)
  | tableWrite (tag : Byte) (params : List Byte)
  | tableCommit (tag : Byte) (params : List Byte)
  | tableVerify (tag : Byte) (params : List Byte)
  | tableBlankCheck (tag : Byte) (params : List Byte)
  | tableRead (tag : Byte) (params : List Byte)
  | tableLock (tag : Byte) (params : List Byte)
  | blockRead (tag : Byte) (params : List Byte)
  | storeClear (tag : Byte) (params : List Byte)
  | noticeMaskSet (tag : Byte) (params : List Byte)
  | reset (tag : Byte) (params : List Byte)
  | erasureCompletion
  | writeCompletion
  | commitCompletion
  | lockCompletion
  | storeClearBlockCompletion
  | limitExpiry
  | hardReset (cause : ResetCause)
  | powerLoss
  | startUp
  | receiverFrameCut (link : Link) (bytes : List Byte)
deriving DecidableEq, Repr

end Sys2Proof
end

