-- ==== Sys2Proof/Config.lean ====
section
/-! DEFINITION. The free values: what the manual leaves open, as constants with no body, so that no proof can see what
they are. Each is applied to what it may depend on, or to the counter `State.freeCount`. -/

namespace Sys2Proof.Config

/-- How long the store operation begun at a count takes, before it is brought into the bound R127 states. DESIGN CHOICE,
log entry 5. -/
opaque storeTime : Nat → Nat

/-- Which of several events due at one moment of the clock is taken first (R12, R40, R53, R77, R96, R177: the manual fixes
no order). DESIGN CHOICE, log entry 2. -/
opaque dueChoice : Nat → Nat

/-- The byte read beyond the end of an image. The laws of Table Memory rule such a read out (R122, R129).
DESIGN CHOICE, log entry 13. -/
opaque missingByte : Nat → Byte

/-- The result of a lookup on a list of no points. A VALID curve has at least two of each (R44).
DESIGN CHOICE, log entry 13. -/
opaque emptyLookup : Nat → Nat

/-- The header fields read through a binding that is absent. R6 rules such a read out. DESIGN CHOICE, log entry 13. -/
opaque unboundRead : Nat → Nat

end Sys2Proof.Config
end

