-- ==== Sys2Proof/Machine/State.lean ====
section
/-! DEFINITION. The state of the part: every record, queue, flag and timer the manual names, as plain data, and the part
right after reset. The rule that names each piece stands beside it; INVENTORY.md lists them all. -/

namespace Sys2Proof.Machine

/-! ### Names the records use -/

/-- The five performer states (R6). -/
inductive PerformerState where
  | absent | ready | onset | sounding | settling
deriving DecidableEq, Repr

/-- The three table kinds (R5, R123). -/
inductive TableKind where
  | map | curve | plan
deriving DecidableEq, Repr

/-- The timing of a staged binding (R5, R142). -/
inductive StagedTiming where
  | atRest | atPhrase
deriving DecidableEq, Repr

/-- The direction of a glide (R3). -/
inductive Direction where
  | up | down
deriving DecidableEq, Repr

/-- How a layer's voice follows an in-zone transition (R64). -/
inductive Legato where
  | glide | restrike
deriving DecidableEq, Repr

/-- The four voice states (R80). -/
inductive VoiceState where
  | disabled | free | sounding | releasing
deriving DecidableEq, Repr

/-- A voice's update flags (R79). -/
inductive UpdateFlag where
  | pitch | level | timbre
deriving DecidableEq, Repr

/-- An engine's pending control frame (R99). -/
inductive Control where
  | quiesce | hush
deriving DecidableEq, Repr

/-- The eight service classes in the order of their numbers 1 to 8 (R106). -/
inductive ServiceClass where
  | start | ending | pitch | level | timbre | control | reply | notice
deriving DecidableEq, Repr

/-- The three bands of the arbiter (R111). -/
inductive Band where
  | high | mid | low
deriving DecidableEq, Repr

/-- The four block states (R121). -/
inductive BlockState where
  | blank | opened | valid | incomplete
deriving DecidableEq, Repr

/-- A store operation in flight on a block (R121). -/
inductive StoreOp where
  | erase | write | commit | lock
deriving DecidableEq, Repr

/-- The refusal causes of a REPLY (R162). -/
inductive Cause where
  | unknownCommand | badLength | badValue | bound | locked | worn | blockState | alreadyWritten | noHeader
  | missingEntry | badEntry | checksumMismatch | notValid | wrongKind
deriving DecidableEq, Repr

/-- The kind of a RESET command (R174). -/
inductive ResetKind where
  | sectionOnly | full
deriving DecidableEq, Repr

/-- The phase of the quiesce record (R173). -/
inductive Phase where
  | idle | quiescing
deriving DecidableEq, Repr

/-- Supply and RESET line: the part runs, is held in reset, or has no power (R139, R179; log entry 6). -/
inductive Power where
  | running | inReset | off
deriving DecidableEq, Repr

/-! ### Timers -/

/-- A running timer: the length it was started with and what is left of it, in tu (R4; R51 reads the length). -/
structure Run where
  length : Nat
  left   : Nat
deriving DecidableEq, Repr

/-- A timer is stopped (`none`) or running (R4). -/
abbrev Timer := Option Run

/-! ### Performer Contexts (chapter 1) -/

/-- The content of a GESTURE frame, as the last frame keeps it (R2). -/
structure Gesture where
  keys   : KeySet
  octave : Int
  breath : Nat
  bite   : Nat
  lip    : Nat
deriving DecidableEq, Repr

/-- The seven performer settings (R16). -/
structure Settings where
  precedence   : Nat
  transpose    : Int
  settleTime   : Nat
  attackWindow : Nat
  guardTime    : Nat
  silenceLimit : Nat
  phraseGap    : Nat
deriving DecidableEq, Repr

/-- The onset record (R3). -/
structure OnsetRecord where
  time      : Stamp
  maxBreath : Nat
deriving DecidableEq, Repr

/-- The note record (R3): the zone index is absent for a silent note, an entry of the voice list is absent when its layer was
denied or has lost its voice. -/
structure NoteRecord where
  pitch    : Nat
  zone     : Option Nat
  velocity : Nat
  voices   : List (Option VoiceId)
deriving DecidableEq, Repr

/-- The glide counter, in cents (R3). -/
structure GlideCounter where
  current   : Nat
  target    : Nat
  step      : Nat
  direction : Direction
deriving DecidableEq, Repr

/-- The six timers of a context (R4). -/
structure Timers where
  settle    : Timer
  attack    : Timer
  guard     : Timer
  silence   : Timer
  phrase    : Timer
  glideStep : Timer
deriving DecidableEq, Repr

/-- A staged binding: its target is a block or "none" (R5). -/
structure Staged where
  target : Option BlockId
  timing : StagedTiming
deriving DecidableEq, Repr

/-- The bindings of one table kind (R5, R142). -/
structure Binding where
  active : Option BlockId
  staged : Option Staged
deriving DecidableEq, Repr

/-- The bindings of a context, one pair for each table kind (R5). -/
structure Bindings where
  map   : Binding
  curve : Binding
  plan  : Binding
deriving DecidableEq, Repr

/-- A Performer Context (R2 to R5). -/
structure Context where
  enabled        : Bool
  state          : PerformerState
  settings       : Settings
  lastFrame      : Option Gesture
  committedPitch : Option Nat
  onset          : Option OnsetRecord
  deferredOnset  : Bool
  note           : Option NoteRecord
  candidate      : Bool
  glide          : GlideCounter
  timers         : Timers
  bindings       : Bindings
deriving DecidableEq, Repr

/-! ### Voice Pool (chapter 5) -/

/-- A layer of a Voice Plan zone, and the copy of it a voice carries (R64, R67). -/
structure Layer where
  engine     : Nat
  program    : Nat
  transpose  : Int
  levelScale : Nat
  legato     : Legato
deriving DecidableEq, Repr

/-- The pending discrete command of a voice (R79). -/
inductive Discrete where
  | start (program velocity : Nat)
  | retake (program velocity : Nat)
  | ending
deriving DecidableEq, Repr

/-- The three update flags (R79). -/
structure Flags where
  pitch  : Bool
  level  : Bool
  timbre : Bool
deriving DecidableEq, Repr

/-- A voice record (R79). -/
structure Voice where
  state        : VoiceState
  owner        : Option Slot
  layer        : Option Nat
  copy         : Option Layer
  tag          : Byte
  startStamp   : Stamp
  releaseStamp : Stamp
  pending      : Option Discrete
  flags        : Flags
  tailTimer    : Timer
deriving DecidableEq, Repr

/-- An engine record (R99). -/
structure Engine where
  present        : Bool
  voiceCount     : Option Nat
  held           : Bool
  tailLimit      : Nat
  pendingControl : Option Control
deriving DecidableEq, Repr

/-! ### Transmit Arbiter (chapter 6) -/

/-- The frame in flight: its class, its bytes, and what is left of its sending time in byte times of 5 µs (R104, R160). -/
structure InFlight where
  cls   : ServiceClass
  bytes : List Byte
  left  : Nat
deriving DecidableEq, Repr

/-- The band map (R111). -/
structure BandMap where
  start   : Band
  ending  : Band
  pitch   : Band
  level   : Band
  timbre  : Band
  control : Band
  reply   : Band
  notice  : Band
deriving DecidableEq, Repr

/-- The rotation points of the bands: the class last served from each (R112). -/
structure BandPoints where
  high : Option ServiceClass
  mid  : Option ServiceClass
  low  : Option ServiceClass
deriving DecidableEq, Repr

/-- The rotation points of the five voice classes: the record index last served in each (R113). -/
structure VoicePoints where
  start  : Option VoiceId
  ending : Option VoiceId
  pitch  : Option VoiceId
  level  : Option VoiceId
  timbre : Option VoiceId
deriving DecidableEq, Repr

/-- The arbiter's own state (section 6.1); the transmitter is IDLE when it holds no frame (R104). -/
structure Arbiter where
  express     : Option ServiceClass
  bands       : BandMap
  bandPoints  : BandPoints
  voicePoints : VoicePoints
  transmitter : Option InFlight
deriving DecidableEq, Repr

/-! ### Table Memory (chapter 7) -/

/-- A written position of a block and the image it holds (R122). -/
abbrev Cell := Nat × Image

/-- A block record and its written positions, in rising order; a position not listed is blank (R121, R122; log entry 19). -/
structure Block where
  state      : BlockState
  kind       : Option TableKind
  locked     : Bool
  eraseCount : Nat
  op         : Option StoreOp
  cells      : List Cell
deriving DecidableEq, Repr

/-! ### Management Unit (chapter 10) -/

/-- A command as it arrives: tag, command code and parameters (R166). -/
structure Cmd where
  tag    : Byte
  code   : Byte
  params : List Byte
deriving DecidableEq, Repr

/-- What a command in progress is doing until its completion (R127, R136, R174). STORE CLEAR erases a block or stands at a
worn one that it passes over (R139; log entry 25); either way it remembers the block, how many it has erased, and the worn
blocks it has passed over before. -/
inductive Work where
  | erase (block : BlockId)
  | write (block : BlockId) (first : Nat) (images : List Image)
  | commit (block : BlockId)
  | lock (block : BlockId)
  | storeClear (block : BlockId) (erased : Nat) (worn : BlockSet)
  | passOver (block : BlockId) (erased : Nat) (worn : BlockSet)
  | reset
deriving DecidableEq, Repr

/-- The command in progress (R167). -/
structure InProgress where
  cmd  : Cmd
  work : Work
deriving DecidableEq, Repr

/-- A built result: no cause for DONE, the cause for REFUSED (R169). -/
structure Built where
  cause   : Option Cause
  overrun : Bool
  data    : List Byte
deriving DecidableEq, Repr

/-- An entry of the reply queue, held (no result yet) or built (R167, R169). -/
structure ReplyEntry where
  tag    : Byte
  code   : Byte
  result : Option Built
deriving DecidableEq, Repr

/-- The seven notices with their subjects (R162, R170). -/
inductive Notice where
  | performerJoined (slot : Slot)
  | performerLost (slot : Slot)
  | engineJoined (engine : EngineId)
  | tailTimeout (voice : VoiceId)
  | layerDenied (slot : Slot) (engine : Nat)
  | bindingApplied (slot : Slot) (kind : TableKind) (staged : Staged)
  | storeInterrupted (blocks : BlockSet)
deriving DecidableEq, Repr

/-- The Management Unit (section 10.1). -/
structure Management where
  inProgress     : Option InProgress
  waiting        : List Cmd
  replies        : List ReplyEntry
  notices        : List Notice
  overrun        : Bool
  noticesDropped : Bool
  mask           : Byte
deriving DecidableEq, Repr

/-! ### Restart Controller (chapter 11) and links (chapter 9) -/

/-- The quiesce record (R173). -/
structure Quiesce where
  phase        : Phase
  kind         : Option ResetKind
  waited       : EngineSet
  sent         : EngineSet
  acknowledged : EngineSet
  limit        : Timer
deriving DecidableEq, Repr

/-- A link receiver: the frame being collected, and whether it takes no byte until the line has been idle for two byte
times (R154, R165). -/
structure Receiver where
  collected    : List Byte
  awaitingIdle : Bool
deriving DecidableEq, Repr

/-! ### The whole part -/

/-- The state of the part. `pending` and `freeCount` are the model's own (log entry 14). -/
structure State where
  contexts      : Vector Context 8
  voices        : Vector Voice 96
  engines       : Vector Engine 4
  broadcastHush : Bool
  arbiter       : Arbiter
  blocks        : Vector Block 24
  storeTimer    : Timer
  mgmt          : Management
  quiesce       : Quiesce
  gestureRx     : Receiver
  voiceRx       : Receiver
  power         : Power
  timebase      : Stamp
  phase         : Nat
  freeCount     : Nat
  pending       : List Instr
deriving DecidableEq, Repr

/-! ### Values at reset -/

/-- The default settings (R16). -/
def Settings.default : Settings where
  precedence := 2
  transpose := 0
  settleTime := 24
  attackWindow := 32
  guardTime := 8
  silenceLimit := 50
  phraseGap := 32

/-- All six timers stopped (R4, R20). -/
def Timers.stopped : Timers := ⟨none, none, none, none, none, none⟩

/-- The glide counter of a context without a note after a reset (R20). -/
def GlideCounter.rest : GlideCounter := ⟨0, 0, 1, .up⟩

/-- Every binding absent (R20). -/
def Bindings.absent : Bindings := ⟨⟨none, none⟩, ⟨none, none⟩, ⟨none, none⟩⟩

/-- A context after a hard reset (R20). -/
def Context.initial : Context where
  enabled := true
  state := .absent
  settings := .default
  lastFrame := none
  committedPitch := none
  onset := none
  deferredOnset := false
  note := none
  candidate := false
  glide := .rest
  timers := .stopped
  bindings := .absent

/-- No update flag set. -/
def Flags.clear : Flags := ⟨false, false, false⟩

/-- A voice record after a hard reset (R103). -/
def Voice.initial : Voice where
  state := .disabled
  owner := none
  layer := none
  copy := none
  tag := 0
  startStamp := 0
  releaseStamp := 0
  pending := none
  flags := .clear
  tailTimer := none

/-- An engine record after a hard reset (R99, R103). -/
def Engine.initial : Engine where
  present := false
  voiceCount := none
  held := false
  tailLimit := 125
  pendingControl := none

/-- The band map after a FULL or hard reset (R111). -/
def BandMap.default : BandMap where
  start := .high
  ending := .high
  pitch := .mid
  level := .mid
  timbre := .low
  control := .high
  reply := .low
  notice := .low

/-- The arbiter after a hard reset (R120). -/
def Arbiter.initial : Arbiter where
  express := some .control
  bands := .default
  bandPoints := ⟨none, none, none⟩
  voicePoints := ⟨none, none, none, none, none⟩
  transmitter := none

/-- A block as it leaves the factory (R121). -/
def Block.factory : Block where
  state := .blank
  kind := none
  locked := false
  eraseCount := 0
  op := none
  cells := []

/-- The Management Unit after a hard reset (R172). -/
def Management.initial : Management where
  inProgress := none
  waiting := []
  replies := []
  notices := []
  overrun := false
  noticesDropped := false
  mask := 0x4F

/-- The quiesce record after a hard reset and at the end of every quiesce (R173). -/
def Quiesce.idle : Quiesce where
  phase := .idle
  kind := none
  waited := 0
  sent := 0
  acknowledged := 0
  limit := none

/-- A receiver after a hard reset: no frame, and no byte taken before an idle line (R165). -/
def Receiver.afterReset : Receiver := ⟨[], true⟩

/-- The part right after a hard reset and its start-up, with Table Memory as it leaves the factory (R20, R103, R120, R121,
R172, R173, R179; log entry 8). -/
def State.reset : State where
  contexts := Vector.replicate 8 Context.initial
  voices := Vector.replicate 96 Voice.initial
  engines := Vector.replicate 4 Engine.initial
  broadcastHush := true
  arbiter := .initial
  blocks := Vector.replicate 24 Block.factory
  storeTimer := none
  mgmt := .initial
  quiesce := .idle
  gestureRx := .afterReset
  voiceRx := .afterReset
  power := .running
  timebase := 0
  phase := 0
  freeCount := 0
  pending := []

/-! ### The reasons a step can stop -/

/-- Nothing in the part stops it: every bad frame is discarded, every bad command answered (R156, R158, R168). No fault is
ever raised, which is safe (log entry 21). -/
inductive Fault where
deriving DecidableEq, Repr

/-- Why a command has no meaning. -/
inductive Refusal where
  /-- An arm of `exec` that has no meaning yet; no arm raises it. Safe. -/
  | notModelled (mnemonic : String)
deriving DecidableEq, Repr

end Sys2Proof.Machine
end

