-- ==== Sys2Proof/Machine/Ops.lean ====
section
/-! DEFINITION. The named operations over the state: reading and writing a record, starting and counting timers, offering
notices, reading bytes, and sets of engines and blocks. -/

namespace Sys2Proof.Machine

/-! ### Records of the state -/

/-- The vector whose element at each index is given. -/
def vec {α : Type} {n : Nat} (f : Fin n → α) : Vector α n := ⟨(List.ofFn f).toArray, by simp⟩

/-- The context of a slot (R1). -/
def State.ctx (s : State) (i : Slot) : Context := s.contexts[i]

/-- The voice record with an index (R79). -/
def State.voice (s : State) (v : VoiceId) : Voice := s.voices[v]

/-- An engine's record (R99). -/
def State.engine (s : State) (e : EngineId) : Engine := s.engines[e]

/-- A block of Table Memory (R121). -/
def State.block (s : State) (b : BlockId) : Block := s.blocks[b]

/-- Write a context. -/
def State.setCtx (s : State) (i : Slot) (c : Context) : State := { s with contexts := s.contexts.set i c }

/-- Write a voice record. -/
def State.setVoice (s : State) (v : VoiceId) (r : Voice) : State := { s with voices := s.voices.set v r }

/-- Write an engine record. -/
def State.setEngine (s : State) (e : EngineId) (r : Engine) : State := { s with engines := s.engines.set e r }

/-- Write a block. -/
def State.setBlock (s : State) (b : BlockId) (r : Block) : State := { s with blocks := s.blocks.set b r }

/-- Write the Management Unit. -/
def State.setMgmt (s : State) (m : Management) : State := { s with mgmt := m }

/-- Write the arbiter. -/
def State.setArbiter (s : State) (a : Arbiter) : State := { s with arbiter := a }

/-- Write the quiesce record. -/
def State.setQuiesce (s : State) (q : Quiesce) : State := { s with quiesce := q }

/-- Change a context. -/
def State.updCtx (s : State) (i : Slot) (f : Context → Context) : State := s.setCtx i (f (s.ctx i))

/-- Change a voice record. -/
def State.updVoice (s : State) (v : VoiceId) (f : Voice → Voice) : State := s.setVoice v (f (s.voice v))

/-- Change an engine record. -/
def State.updEngine (s : State) (e : EngineId) (f : Engine → Engine) : State := s.setEngine e (f (s.engine e))

/-- Change a block. -/
def State.updBlock (s : State) (b : BlockId) (f : Block → Block) : State := s.setBlock b (f (s.block b))

/-- Change every context. -/
def State.mapContexts (s : State) (f : Slot → Context → Context) : State :=
  { s with contexts := vec fun i => f i (s.ctx i) }

/-- Change every voice record. -/
def State.mapVoices (s : State) (f : VoiceId → Voice → Voice) : State :=
  { s with voices := vec fun v => f v (s.voice v) }

/-- Change every engine record. -/
def State.mapEngines (s : State) (f : EngineId → Engine → Engine) : State :=
  { s with engines := vec fun e => f e (s.engine e) }

/-- Change every block. -/
def State.mapBlocks (s : State) (f : BlockId → Block → Block) : State :=
  { s with blocks := vec fun b => f b (s.block b) }

/-- Do one thing for each member of a list, in order. -/
def forEach {α : Type} (l : List α) (f : α → State → State) (s : State) : State := l.foldl (fun s a => f a s) s

/-- The slots in order, 0 to 7. -/
def slots : List Slot := List.finRange 8

/-- The voice records in index order. -/
def voiceIds : List VoiceId := List.finRange 96

/-- The engines in order, 0 to 3. -/
def engineIds : List EngineId := List.finRange 4

/-- The blocks in order, 0 to 23. -/
def blockIds : List BlockId := List.finRange 24

/-- Do something only while the part runs: from a hard reset to the release of the line, and without power, the part takes
no frame and sends none (R165, R179; log entry 6). -/
def State.whenRunning (s : State) (t : State) : State :=
  match s.power with
  | .running => t
  | .inReset => s
  | .off => s

/-! ### Voice indexes -/

/-- The engine a voice record belongs to: its index divided by 24 (R79). -/
def engineOf (v : VoiceId) : EngineId := ⟨v.val / 24, by omega⟩

/-- The voice number of a record: its index modulo 24 (R79). -/
def voiceNumber (v : VoiceId) : Nat := v.val % 24

/-- The record of an engine's voice: index 24 × engine + voice number (R94). -/
def voiceAt (e : EngineId) (n : Fin 24) : VoiceId := ⟨24 * e.val + n.val, by omega⟩

/-- The 24 records of an engine, in index order. The engine may be any number a layer names. -/
def engineVoices (e : Nat) : List VoiceId := voiceIds.filter fun v => (engineOf v).val = e

/-! ### Timers -/

/-- A timer started afresh with a length in tu (R4). -/
def Timer.start (length : Nat) : Timer := some ⟨length, length⟩

/-- A timer whose length may be 0: a length of 0 leaves it stopped (R56). -/
def Timer.startIfAny (length : Nat) : Timer := if length = 0 then none else Timer.start length

/-- Whether a timer runs. -/
def Timer.running (t : Timer) : Bool := t.isSome

/-- A running timer whose interval is over: its expiry has come. -/
def Timer.due (t : Timer) : Bool :=
  match t with
  | some r => r.left == 0
  | none => false

/-- A timer one tu later. -/
def Timer.tick (t : Timer) : Timer :=
  match t with
  | some r => some { r with left := r.left - 1 }
  | none => none

/-! ### Bindings -/

/-- The bindings of one kind. -/
def Bindings.get (b : Bindings) : TableKind → Binding
  | .map => b.map
  | .curve => b.curve
  | .plan => b.plan

/-- Write the bindings of one kind. -/
def Bindings.set (b : Bindings) (k : TableKind) (v : Binding) : Bindings :=
  match k with
  | .map => { b with map := v }
  | .curve => { b with curve := v }
  | .plan => { b with plan := v }

/-- The three kinds in their order MAP, CURVE, PLAN (R146). -/
def tableKinds : List TableKind := [.map, .curve, .plan]

/-- All three kinds actively bound (R46). -/
def Bindings.allActive (b : Bindings) : Bool :=
  b.map.active.isSome && b.curve.active.isSome && b.plan.active.isSome

/-- Whether any binding, active or staged, names a block (R137). -/
def Bindings.names (b : Bindings) (x : BlockId) : Bool :=
  tableKinds.any fun k =>
    (b.get k).active == some x || (match (b.get k).staged with | some st => st.target == some x | none => false)

/-- Whether a block is bound: some performer's active or staged binding names it (R137). -/
def State.bound (s : State) (b : BlockId) : Bool := slots.any fun i => (s.ctx i).bindings.names b

/-! ### Sets -/

/-- Membership in a set of engines. -/
def EngineSet.has (x : EngineSet) (e : EngineId) : Bool := x.getLsbD e.val

/-- A set of engines with one more. -/
def EngineSet.insert (x : EngineSet) (e : EngineId) : EngineSet := x ||| BitVec.twoPow 4 e.val

/-- A set of engines without one. -/
def EngineSet.erase (x : EngineSet) (e : EngineId) : EngineSet := x &&& ~~~(BitVec.twoPow 4 e.val)

/-- The set of engines with a property. -/
def EngineSet.ofPred (p : EngineId → Bool) : EngineSet :=
  engineIds.foldl (fun x e => if p e then EngineSet.insert x e else x) 0

/-- A set of blocks with one more. -/
def BlockSet.insert (x : BlockSet) (b : BlockId) : BlockSet := x ||| BitVec.twoPow 24 b.val

/-- The set of blocks with a property. -/
def BlockSet.ofPred (p : BlockId → Bool) : BlockSet :=
  blockIds.foldl (fun x b => if p b then BlockSet.insert x b else x) 0

/-! ### Bytes -/

/-- A byte holding a number, modulo 256. -/
def byte (n : Nat) : Byte := BitVec.ofNat 8 n

/-- A signed byte, in two's complement (R161). -/
def signedByte (n : Int) : Byte := BitVec.ofInt 8 n

/-- A number of two bytes, high byte first (R161). -/
def be16 (n : Nat) : List Byte := [byte (n / 256), byte n]

/-- A set of three bytes, high byte first (R161). -/
def be24 (x : BitVec 24) : List Byte := [x.extractLsb' 16 8, x.extractLsb' 8 8, x.extractLsb' 0 8]

/-- A timebase reading of four bytes, high byte first (R161). -/
def be32 (x : Stamp) : List Byte :=
  [x.extractLsb' 24 8, x.extractLsb' 16 8, x.extractLsb' 8 8, x.extractLsb' 0 8]

/-- A yes/no field (R161). -/
def yesNo (b : Bool) : Byte := if b then 1 else 0

/-- An optional byte: FFh when absent (R161). -/
def optByte (o : Option Nat) : Byte :=
  match o with
  | some n => byte n
  | none => 0xFF

/-- The byte of an image at an offset (log entry 13 for an offset beyond its end). -/
def byteAt (x : Image) (n : Nat) : Byte :=
  match x[n]? with
  | some b => b
  | none => Config.missingByte n

/-- The unsigned number of one byte at an offset (R161). -/
def u8At (x : Image) (n : Nat) : Nat := (byteAt x n).toNat

/-- The signed number of one byte at an offset (R161). -/
def s8At (x : Image) (n : Nat) : Int := (byteAt x n).toInt

/-- The number of two bytes at an offset, high byte first (R161). -/
def u16At (x : Image) (n : Nat) : Nat := 256 * u8At x n + u8At x (n + 1)

/-- The set of key numbers held in three bytes at an offset (R161). -/
def keysAt (x : Image) (n : Nat) : KeySet := byteAt x n ++ byteAt x (n + 1) ++ byteAt x (n + 2)

/-- The check value of a frame: what brings the sum of all its bytes to a multiple of 256 (R155). -/
def checkValue (body : List Byte) : Byte := 0 - body.foldl (· + ·) 0

/-- A frame closed by its check value (R155). -/
def closed (body : List Byte) : List Byte := body ++ [checkValue body]

/-- Whether the check of a frame holds: its bytes sum to a multiple of 256 (R155). -/
def checkHolds (frame : List Byte) : Bool := frame.foldl (· + ·) (0 : Byte) == 0

/-! ### Searching -/

/-- The first element of a list that no other is better than: among equals the earliest is taken (R85). -/
def best {α : Type} (better : α → α → Bool) : List α → Option α
  | [] => none
  | x :: xs =>
    match best better xs with
    | none => some x
    | some y => if better y x then some y else some x

/-- The age of a stamp: the interval from it to the present reading, modulo 2^32 (R3, R79). -/
def State.age (s : State) (stamp : Stamp) : Nat := (s.timebase - stamp).toNat

/-- A free value drawn at the counter of the state, and the state with the counter advanced (log entries 2 and 5). -/
def State.countFree (s : State) : State := { s with freeCount := s.freeCount + 1 }

end Sys2Proof.Machine
end

