-- ==== Sys2Proof/Machine/Flags.lean ====
section
/-! DEFINITION. The flags of the part: the update flags of a voice, the notice mask and the notices-dropped flag, the
overrun flag and the building of replies that carry it. -/

namespace Sys2Proof.Machine

/-! ### Update flags -/

/-- Whether a flag is yes. -/
def Flags.get (f : Flags) : UpdateFlag → Bool
  | .pitch => f.pitch
  | .level => f.level
  | .timbre => f.timbre

/-- A flag set to a value. -/
def Flags.put (f : Flags) (x : UpdateFlag) (b : Bool) : Flags :=
  match x with
  | .pitch => { f with pitch := b }
  | .level => { f with level := b }
  | .timbre => { f with timbre := b }

/-- Whether any flag is yes. -/
def Flags.any (f : Flags) : Bool := f.pitch || f.level || f.timbre

/-- The flags as a report byte: PITCH bit 0, LEVEL bit 1, TIMBRE bit 2 (R163). -/
def Flags.toByte (f : Flags) : Byte :=
  byte (cond f.pitch 1 0 + cond f.level 2 0 + cond f.timbre 4 0)

/-! ### Notices (R170) -/

/-- The code of a notice's kind, 1 to 7 (R162). -/
def Notice.code : Notice → Nat
  | .performerJoined _ => 1
  | .performerLost _ => 2
  | .engineJoined _ => 3
  | .tailTimeout _ => 4
  | .layerDenied _ _ => 5
  | .bindingApplied _ _ _ => 6
  | .storeInterrupted _ => 7

/-- Whether the mask allows a notice: kind k is allowed when bit k − 1 is 1 (R171). -/
def Management.allows (m : Management) (n : Notice) : Bool := m.mask.getLsbD (n.code - 1)

/-- Offer a notice: discarded when its kind is masked, queued when fewer than 8 are queued, otherwise discarded with the
notices-dropped flag set (R170). -/
def Management.offer (m : Management) (n : Notice) : Management :=
  if !m.allows n then m
  else if m.notices.length < 8 then { m with notices := m.notices ++ [n] }
  else { m with noticesDropped := true }

/-- Offer a notice to the Management Unit (R170). -/
def State.offer (s : State) (n : Notice) : State := s.setMgmt (s.mgmt.offer n)

/-! ### Replies and the overrun flag (R169) -/

/-- Give the held entry its result: the first entry without one. At most one entry is unbuilt, the newest (R169). -/
def buildHeld (r : Built) : List ReplyEntry → List ReplyEntry
  | [] => []
  | e :: es => if e.result.isNone then { e with result := some r } :: es else e :: buildHeld r es

/-- Build the reply of the command in progress, carrying the overrun flag and clearing it; the command is then no longer in
progress (R167, R169). -/
def State.buildReply (s : State) (cause : Option Cause) (data : List Byte) : State :=
  s.setMgmt { s.mgmt with
    inProgress := none
    replies := buildHeld ⟨cause, s.mgmt.overrun, data⟩ s.mgmt.replies
    overrun := false }

end Sys2Proof.Machine
end

