-- ==== Sys2Proof/Machine/Operands.lean ====
section
/-! DEFINITION. What bytes mean: the codes of R161 to R163, the images of R164 and the tables read from them. -/

namespace Sys2Proof.Machine

/-! ### Codes -/

/-- The code of a performer state (R161). -/
def PerformerState.code : PerformerState → Byte
  | .absent => 0
  | .ready => 1
  | .onset => 2
  | .sounding => 3
  | .settling => 4

/-- The code of a voice state (R161). -/
def VoiceState.code : VoiceState → Byte
  | .disabled => 0
  | .free => 1
  | .sounding => 2
  | .releasing => 3

/-- The code of a block state (R161). -/
def BlockState.code : BlockState → Byte
  | .blank => 0
  | .opened => 1
  | .valid => 2
  | .incomplete => 3

/-- The code of a table kind (R161). -/
def TableKind.code : TableKind → Byte
  | .map => 1
  | .curve => 2
  | .plan => 3

/-- The table kind with a code (R161). -/
def tableKindOf (b : Byte) : Option TableKind :=
  if b = 1 then some .map else if b = 2 then some .curve else if b = 3 then some .plan else none

/-- A kind in a report, 0 when absent (R161). -/
def optKindByte (k : Option TableKind) : Byte :=
  match k with
  | some k => k.code
  | none => 0

/-- The code of a staged timing (R161). -/
def StagedTiming.code : StagedTiming → Byte
  | .atRest => 1
  | .atPhrase => 2

/-- The code of a legato mode (R161). -/
def Legato.code : Legato → Byte
  | .glide => 0
  | .restrike => 1

/-- The number of a service class (R106). -/
def ServiceClass.number : ServiceClass → Nat
  | .start => 1
  | .ending => 2
  | .pitch => 3
  | .level => 4
  | .timbre => 5
  | .control => 6
  | .reply => 7
  | .notice => 8

/-- The eight classes in the order of their numbers (R106). -/
def serviceClasses : List ServiceClass := [.start, .ending, .pitch, .level, .timbre, .control, .reply, .notice]

/-- The class with a number (R106). -/
def serviceClassOf (n : Nat) : Option ServiceClass := serviceClasses.find? fun c => c.number = n

/-- The code of a band (R118). -/
def Band.code : Band → Byte
  | .high => 1
  | .mid => 2
  | .low => 3

/-- The band with a code (R118). -/
def bandOf (b : Byte) : Option Band :=
  if b = 1 then some .high else if b = 2 then some .mid else if b = 3 then some .low else none

/-- The code of a refusal cause (R162). -/
def Cause.code : Cause → Byte
  | .unknownCommand => 1
  | .badLength => 2
  | .badValue => 3
  | .bound => 4
  | .locked => 5
  | .worn => 6
  | .blockState => 7
  | .alreadyWritten => 8
  | .noHeader => 9
  | .missingEntry => 10
  | .badEntry => 11
  | .checksumMismatch => 12
  | .notValid => 13
  | .wrongKind => 14

/-- A binding target: a block, or FFh for "none" or an absent binding (R161). -/
def blockByte (b : Option BlockId) : Byte := optByte (b.map (·.val))

/-- A staged binding in a report: target and timing; the timing is 0 when nothing is staged (R161). -/
def stagedBytes (o : Option Staged) : List Byte :=
  match o with
  | some st => [blockByte st.target, st.timing.code]
  | none => [0xFF, 0]

/-- The index below `n` that a byte names, if any. -/
def indexOf (n : Nat) (b : Byte) : Option (Fin n) := if h : b.toNat < n then some ⟨b.toNat, h⟩ else none

/-! ### Images (R164) -/

/-- The length of a header image. -/
def TableKind.headerLength : TableKind → Nat
  | .map => 4
  | .curve => 10
  | .plan => 2

/-- The length of an entry image. -/
def TableKind.entryLength : TableKind → Nat
  | .map => 8
  | .curve => 4
  | .plan => 24

/-- The length of the image of a position: position 0 holds the header. -/
def TableKind.imageLength (k : TableKind) (position : Nat) : Nat :=
  if position = 0 then k.headerLength else k.entryLength

/-- The image at a position of a block; `none` for a blank position (R122). -/
def Block.image (b : Block) (position : Nat) : Option Image := b.cells.lookup position

/-- Whether a position is written (R122). -/
def Block.written (b : Block) (position : Nat) : Bool := (b.image position).isSome

/-- The header image of a block. -/
def Block.header (b : Block) : Option Image := b.image 0

/-- The entry count that a header image names: its second byte in every kind. -/
def entryCount (header : Image) : Nat := u8At header 1

/-- The images at positions `first` to `last`, blank positions left out. -/
def Block.images (b : Block) (first last : Nat) : List Image :=
  (List.range' first (last + 1 - first)).filterMap b.image

/-! ### Fingering Maps (R25, R26) -/

/-- A Fingering Map entry. -/
structure MapEntry where
  keys        : KeySet
  care        : KeySet
  offset      : Int
  octaveFixed : Bool
deriving DecidableEq, Repr

/-- A Fingering Map. -/
structure FingerMap where
  baseNote    : Nat
  defaultNote : Nat
  entries     : List MapEntry
deriving DecidableEq, Repr

/-- A Fingering Map entry from its image. -/
def mapEntryOf (x : Image) : MapEntry := ⟨keysAt x 0, keysAt x 3, s8At x 6, byteAt x 7 != 0⟩

/-- The Fingering Map a block holds: its entries are positions 1 to entry count (R25). -/
def Block.fingerMap (b : Block) : Option FingerMap :=
  b.header.map fun h => ⟨u8At h 2, u8At h 3, (b.images 1 (entryCount h)).map mapEntryOf⟩

/-! ### Breath Curves (R43, R44) -/

/-- A Breath Curve: its header fields and its two lists of points, each an input and an output. -/
structure Curve where
  onsetThreshold   : Nat
  releaseThreshold : Nat
  peakDrop         : Nat
  biteDepth        : Nat
  bendDepth        : Nat
  breathPoints     : List (Nat × Nat)
  velocityPoints   : List (Nat × Nat)
deriving DecidableEq, Repr

/-- A point of a Breath Curve from its image. -/
def curvePointOf (x : Image) : Nat × Nat := (u16At x 0, u16At x 2)

/-- The Breath Curve a block holds: breath points at positions 1 to breath point count, velocity points after them to the
entry count (R44). -/
def Block.curve (b : Block) : Option Curve :=
  b.header.map fun h =>
    { onsetThreshold := u16At h 3
      releaseThreshold := u16At h 5
      peakDrop := u8At h 7
      biteDepth := u8At h 8
      bendDepth := u8At h 9
      breathPoints := (b.images 1 (u8At h 2)).map curvePointOf
      velocityPoints := (b.images (u8At h 2 + 1) (entryCount h)).map curvePointOf }

/-! ### Voice Plans (R63, R64) -/

/-- A zone of a Voice Plan. -/
structure Zone where
  low       : Nat
  high      : Nat
  glideTime : Nat
  layers    : List Layer
deriving DecidableEq, Repr

/-- The layer in a slot of a zone image: slots of 5 bytes after the first four bytes. -/
def layerOf (x : Image) (slot : Nat) : Layer where
  engine := u8At x (4 + 5 * slot)
  program := u8At x (4 + 5 * slot + 1)
  transpose := s8At x (4 + 5 * slot + 2)
  levelScale := u8At x (4 + 5 * slot + 3)
  legato := if byteAt x (4 + 5 * slot + 4) = 1 then .restrike else .glide

/-- A zone from its image; slots beyond the layer count are not read. -/
def zoneOf (x : Image) : Zone := ⟨u8At x 0, u8At x 1, u8At x 2, (List.range (u8At x 3)).map (layerOf x)⟩

/-- The zones of the Voice Plan a block holds: positions 1 to entry count (R63). -/
def Block.plan (b : Block) : Option (List Zone) :=
  b.header.map fun h => (b.images 1 (entryCount h)).map zoneOf

/-! ### The tables a performer acts through (R5) -/

/-- The block of a performer's active binding of a kind. -/
def State.activeBlock (s : State) (i : Slot) (k : TableKind) : Option Block :=
  ((s.ctx i).bindings.get k).active.map s.block

/-- The performer's active Fingering Map (R25). -/
def State.activeMap (s : State) (i : Slot) : Option FingerMap := (s.activeBlock i .map).bind Block.fingerMap

/-- The performer's active Breath Curve (R43). -/
def State.activeCurve (s : State) (i : Slot) : Option Curve := (s.activeBlock i .curve).bind Block.curve

/-- The zones of the performer's active Voice Plan (R63). -/
def State.activePlan (s : State) (i : Slot) : List Zone :=
  match (s.activeBlock i .plan).bind Block.plan with
  | some zones => zones
  | none => []

end Sys2Proof.Machine
end

