-- ==== Sys2Proof/Machine/Lookup.lean ====
section
/-! DEFINITION. What is read from a table: the resolution of a pattern (chapter 2), interpolation and expression (chapter 3),
the zone of a pitch and the pitch of a voice (chapter 4). -/

namespace Sys2Proof.Machine

/-! ### Resolution (R27, R28, R30) -/

/-- Whether an entry matches a key set: restricted to the care set, it equals the keys set (R27). -/
def MapEntry.hits (m : MapEntry) (keys : KeySet) : Bool := keys &&& m.care == m.keys

/-- The sum of R28. -/
def pitchSum (base : Nat) (m : MapEntry) (octave transpose : Int) : Int :=
  base + m.offset + (if m.octaveFixed then 0 else octave * 12) + transpose

/-- The pitch a pattern resolves to, or unmapped: the first matching entry decides, and a sum outside 0 to 127 is unmapped
(R27, R28). -/
def FingerMap.resolve (m : FingerMap) (keys : KeySet) (octave transpose : Int) : Option Nat :=
  match m.entries.find? (·.hits keys) with
  | none => none
  | some e =>
    let sum := pitchSum m.baseNote e octave transpose
    if 0 ≤ sum ∧ sum ≤ 127 then some sum.toNat else none

/-- A sum limited to a range from 0 (R30, R73). -/
def clamp (top : Nat) (n : Int) : Nat := min top n.toNat

/-- The pattern of a gesture resolved through the performer's active map with its transpose (R29). -/
def State.resolve (s : State) (i : Slot) (g : Gesture) : Option Nat :=
  (s.activeMap i).bind fun m => m.resolve g.keys g.octave (s.ctx i).settings.transpose

/-- The default note of the performer's active map. -/
def State.defaultNote (s : State) (i : Slot) : Nat :=
  match s.activeMap i with
  | some m => m.defaultNote
  | none => Config.unboundRead 0

/-- The pitch of a new note: the resolved pitch, else the committed pitch, else the default note with the transpose,
limited to 0 to 127 (R30). -/
def State.choosePitch (s : State) (i : Slot) (g : Gesture) : Nat :=
  match s.resolve i g with
  | some p => p
  | none =>
    match (s.ctx i).committedPitch with
    | some p => p
    | none => clamp 127 (s.defaultNote i + (s.ctx i).settings.transpose)

/-! ### Breath Curve lookups (R45, R57 to R59) -/

/-- Linear interpolation on a list of points, the increment rounded toward zero (R45). -/
def interpolate : List (Nat × Nat) → Nat → Nat
  | [], x => Config.emptyLookup x
  | [p], _ => p.2
  | p :: q :: rest, x =>
    if x ≤ p.1 then p.2
    else if x < q.1 then
      ((p.2 : Int) + (((x : Int) - p.1) * ((q.2 : Int) - p.2)).tdiv ((q.1 : Int) - p.1)).toNat
    else interpolate (q :: rest) x

/-- The note level of a gesture (R57). -/
def Curve.noteLevel (c : Curve) (g : Gesture) : Nat := interpolate c.breathPoints g.breath

/-- The velocity of an attack time (R54, step 1). -/
def Curve.velocity (c : Curve) (attackTime : Nat) : Nat := interpolate c.velocityPoints attackTime

/-- The timbre of a gesture: bite × depth / 127, rounded toward zero, then limited to 127 (R58). -/
def Curve.timbre (c : Curve) (g : Gesture) : Nat := min 127 (g.bite * c.biteDepth / 127)

/-- The lip bend of a gesture in cents: (lip − 128) × depth / 128, rounded toward zero (R59). -/
def Curve.lipBend (c : Curve) (g : Gesture) : Int := (((g.lip : Int) - 128) * c.bendDepth).tdiv 128

/-- The voice level: note level × level scale / 100, rounded toward zero (R57). -/
def voiceLevel (noteLevel levelScale : Nat) : Nat := noteLevel * levelScale / 100

/-! ### Zones and voice pitches (R65, R73) -/

/-- Whether a zone covers a pitch (R65). -/
def Zone.covers (z : Zone) (pitch : Nat) : Bool := z.low ≤ pitch && pitch ≤ z.high

/-- The first zone that covers a pitch, with its zone index counted from a number (R65). -/
def findZone (pitch : Nat) : Nat → List Zone → Option (Nat × Zone)
  | _, [] => none
  | n, z :: zs => if z.covers pitch then some (n, z) else findZone pitch (n + 1) zs

/-- The zone of a pitch in the performer's active Voice Plan: zone indexes count from 1 (R63, R65). -/
def State.zoneFor (s : State) (i : Slot) (pitch : Nat) : Option (Nat × Zone) :=
  findZone pitch 1 (s.activePlan i)

/-- The pitch of a voice in cents (R73). -/
def voicePitch (glide : GlideCounter) (copy : Layer) (lipBend : Int) : Nat :=
  let base : Nat :=
    match copy.legato with
    | .glide => glide.current
    | .restrike => glide.target
  clamp 12700 (base + copy.transpose * 100 + lipBend)

/-- What a voice frame carries of a voice's pitch, level and timbre. -/
structure VoiceValues where
  pitch  : Nat
  level  : Nat
  timbre : Nat
deriving DecidableEq, Repr

/-- The values of a voice as they stand: from the owner's context, its last frame and active curve, and the voice's layer copy
(R57, R58, R73, R115). A voice without owner, copy, last frame or curve has no such values (log entry 13). -/
def State.voiceValues (s : State) (v : VoiceId) : VoiceValues :=
  match (s.voice v).owner, (s.voice v).copy with
  | some i, some copy =>
    match s.activeCurve i, (s.ctx i).lastFrame with
    | some c, some g =>
      ⟨voicePitch (s.ctx i).glide copy (c.lipBend g), voiceLevel (c.noteLevel g) copy.levelScale, c.timbre g⟩
    | _, _ => ⟨Config.unboundRead 1, Config.unboundRead 2, Config.unboundRead 3⟩
  | _, _ => ⟨Config.unboundRead 1, Config.unboundRead 2, Config.unboundRead 3⟩

end Sys2Proof.Machine
end

