-- ==== Sys2Proof/Machine/Pool.lean ====
section
/-! DEFINITION. The Voice Pool (chapter 5): the requests of the Voice Planner, allocation and stealing, tails and engine
records. -/

namespace Sys2Proof.Machine

/-! ### Requests on a voice of a note (R82 to R84)

A request names a voice of the requester's voice list, which is a SOUNDING voice (R80); on any other record it has no effect
(log entry 18). -/

/-- A voice record that belongs to nobody and owes nothing. -/
def Voice.letGo (r : Voice) : Voice :=
  { r with owner := none, layer := none, copy := none, flags := .clear }

/-- The record after an end request at a timebase reading (R82). -/
def Voice.ended (r : Voice) (now : Stamp) : Voice :=
  match r.state with
  | .sounding =>
    match r.pending with
    | some (.start _ _) => { r.letGo with state := .free, pending := none }
    | _ => { r.letGo with state := .releasing, pending := some .ending, releaseStamp := now }
  | .disabled => r
  | .free => r
  | .releasing => r

/-- An end request (R82). -/
def State.endVoice (s : State) (v : VoiceId) : State := s.updVoice v (·.ended s.timebase)

/-- The pending command of a voice that is given new parameters: START stays START, anything else is RETAKE (R83, R87). -/
def restruck (pending : Option Discrete) (program velocity : Nat) : Option Discrete :=
  match pending with
  | some (.start _ _) => some (.start program velocity)
  | some (.retake _ _) => some (.retake program velocity)
  | some .ending => some (.retake program velocity)
  | none => some (.retake program velocity)

/-- The record after a retake request (R83). -/
def Voice.retaken (r : Voice) (program velocity : Nat) : Voice :=
  match r.state with
  | .sounding => { r with pending := restruck r.pending program velocity }
  | .disabled => r
  | .free => r
  | .releasing => r

/-- A retake request (R83). -/
def State.retakeVoice (s : State) (v : VoiceId) (program velocity : Nat) : State :=
  s.updVoice v (·.retaken program velocity)

/-- The record after a set-flag request (R84). -/
def Voice.flagged (r : Voice) (x : UpdateFlag) : Voice :=
  match r.state with
  | .sounding => { r with flags := r.flags.put x true }
  | .disabled => r
  | .free => r
  | .releasing => r

/-- A set-flag request (R84). -/
def State.flagVoice (s : State) (v : VoiceId) (x : UpdateFlag) : State := s.updVoice v (·.flagged x)

/-! ### Allocation (R85 to R89) -/

/-- The lowest-indexed FREE record of an engine (R85, step 1). -/
def State.freeVoice (s : State) (engine : Nat) : Option VoiceId :=
  (engineVoices engine).find? fun v => (s.voice v).state = .free

/-- The RELEASING record of an engine with the oldest release stamp, lowest index first among equals (R85, step 2). -/
def State.oldestReleasing (s : State) (engine : Nat) : Option VoiceId :=
  best (fun v w => s.age (s.voice w).releaseStamp < s.age (s.voice v).releaseStamp)
    ((engineVoices engine).filter fun v => (s.voice v).state = .releasing)

/-- The precedence of a voice's owner at this moment, if it has one. -/
def State.ownerPrecedence (s : State) (v : VoiceId) : Option Nat :=
  (s.voice v).owner.map fun o => (s.ctx o).settings.precedence

/-- A SOUNDING record that a requester may steal: its owner is another performer of lower precedence (R85, step 3). -/
def State.stealable (s : State) (i : Slot) (v : VoiceId) : Bool :=
  (s.voice v).state = .sounding &&
    match (s.voice v).owner with
    | some o => o ≠ i && (s.ctx o).settings.precedence < (s.ctx i).settings.precedence
    | none => false

/-- Whether one SOUNDING record is a better victim than another: lower precedence of the owner, then older start stamp
(R85, step 3). -/
def State.betterVictim (s : State) (v w : VoiceId) : Bool :=
  match s.ownerPrecedence v, s.ownerPrecedence w with
  | some p, some q =>
    p < q || (p == q && s.age (s.voice w).startStamp < s.age (s.voice v).startStamp)
  | _, _ => false

/-- The SOUNDING record a requester takes from another performer (R85, step 3). -/
def State.victim (s : State) (i : Slot) (engine : Nat) : Option VoiceId :=
  best s.betterVictim ((engineVoices engine).filter (s.stealable i))

/-- The record of a FREE voice that is granted to a requester (R86). -/
def Voice.granted (r : Voice) (i : Slot) (index : Nat) (layer : Layer) (velocity : Nat) (now : Stamp) : Voice :=
  { r with
    state := .sounding
    owner := some i
    layer := some index
    copy := some layer
    startStamp := now
    pending := some (.start layer.program velocity)
    flags := .clear
    tailTimer := none }

/-- The record of a voice that is stolen by a requester (R87, steps 2 to 5). -/
def Voice.stolen (r : Voice) (i : Slot) (index : Nat) (layer : Layer) (velocity : Nat) (now : Stamp) : Voice :=
  { r with
    state := .sounding
    owner := some i
    layer := some index
    copy := some layer
    startStamp := now
    pending := restruck r.pending layer.program velocity
    flags := .clear
    tailTimer := none }

/-- A voice list without a voice: the entry that holds it becomes absent (R87, R97). -/
def NoteRecord.without (n : NoteRecord) (p : VoiceId → Bool) : NoteRecord :=
  { n with voices := n.voices.map fun e =>
      match e with
      | some v => if p v then none else some v
      | none => none }

/-- A context whose note loses the voices with a property (R87, R97). -/
def Context.lose (c : Context) (p : VoiceId → Bool) : Context := { c with note := c.note.map (·.without p) }

/-- The old owner's voice list loses a SOUNDING voice that is stolen (R87, step 1). -/
def State.dispossess (s : State) (v : VoiceId) : State :=
  match (s.voice v).state, (s.voice v).owner with
  | .sounding, some o => s.updCtx o (·.lose (· == v))
  | _, _ => s

/-- A steal of a voice by a requester (R87). -/
def State.steal (s : State) (v : VoiceId) (i : Slot) (index : Nat) (layer : Layer) (velocity : Nat) : State :=
  (s.dispossess v).updVoice v (·.stolen i index layer velocity s.timebase)

/-- An allocation request: the answer and the state after it (R85). -/
def State.allocate (s : State) (i : Slot) (index : Nat) (layer : Layer) (velocity : Nat) : Option VoiceId × State :=
  match s.freeVoice layer.engine with
  | some v => (some v, s.updVoice v (·.granted i index layer velocity s.timebase))
  | none =>
    match s.oldestReleasing layer.engine with
    | some v => (some v, s.steal v i index layer velocity)
    | none =>
      match s.victim i layer.engine with
      | some v => (some v, s.steal v i index layer velocity)
      | none => (none, s.offer (.layerDenied i layer.engine))

/-! ### Tails and engines (R94, R95, R97, R98) -/

/-- A RELEASING voice whose tail is over (R94, R95). -/
def Voice.tailOver (r : Voice) : Voice := { r with state := .free, tailTimer := none }

/-- A TAIL DONE for a voice with a tag (R94). -/
def State.tailDone (s : State) (v : VoiceId) (tag : Byte) : State :=
  if (s.voice v).tag = tag ∧ (s.voice v).state = .releasing ∧ (s.voice v).pending = none then
    s.updVoice v Voice.tailOver
  else s

/-- The expiry of a voice's tail timer (R95). -/
def State.tailExpiry (s : State) (v : VoiceId) : State :=
  if (s.voice v).tailTimer.running then
    match (s.voice v).state with
    | .releasing => (s.updVoice v Voice.tailOver).offer (.tailTimeout v)
    | .disabled => s.updVoice v ({ · with tailTimer := none })
    | .free => s.updVoice v ({ · with tailTimer := none })
    | .sounding => s.updVoice v ({ · with tailTimer := none })
  else s

/-- A voice record emptied, in a state: nothing is owned, owed or running (R97, R103). -/
def Voice.emptied (r : Voice) (st : VoiceState) : Voice :=
  { r.letGo with state := st, pending := none, tailTimer := none }

/-- A voice record after a HELLO announcing a voice count (R97, step 2). -/
def Voice.afterHello (r : Voice) (number count : Nat) : Voice :=
  { r.emptied (if number < count then .free else .disabled) with tag := 0 }

/-- The engine record after a HELLO (R97, step 3). -/
def Engine.joined (e : Engine) (count : Nat) : Engine :=
  { e with present := true, voiceCount := some count, held := false, pendingControl := none }

/-- A HELLO at the Voice Pool and at the owners' contexts, as one event (R97). -/
def State.hello (s : State) (e : EngineId) (count : Nat) : State :=
  let s := s.mapContexts fun _ c => c.lose fun v => engineOf v = e
  let s := s.mapVoices fun v r => if engineOf v = e then r.afterHello (voiceNumber v) count else r
  let s := s.updEngine e (·.joined count)
  s.offer (.engineJoined e)

/-- A HOLD or a GO: the held field of a present engine (R98). -/
def State.setHeld (s : State) (e : EngineId) (held : Bool) : State :=
  if (s.engine e).present then s.updEngine e ({ · with held := held }) else s

end Sys2Proof.Machine
end

