-- ==== Sys2Proof/Machine/Arbiter.lean ====
section
/-! DEFINITION. The Transmit Arbiter (chapter 6): eligibility, the order of selection, and the frames that are taken with
their effects on the records that own them. -/

namespace Sys2Proof.Machine

/-! ### Eligibility (R90, R106 to R108) -/

/-- Whether a voice's engine is held. -/
def State.voiceHeld (s : State) (v : VoiceId) : Bool := (s.engine (engineOf v)).held

/-- Whether a voice record owes an update frame that may go: SOUNDING, nothing pending, the flag yes (R106). -/
def Voice.owesUpdate (r : Voice) (x : UpdateFlag) : Bool :=
  r.state == .sounding && r.pending.isNone && r.flags.get x

/-- Whether a voice record owes a START or RETAKE. -/
def Voice.owesStart (r : Voice) : Bool :=
  match r.pending with
  | some (.start _ _) => true
  | some (.retake _ _) => true
  | some .ending => false
  | none => false

/-- Whether a voice record is eligible in a class (R106, R107, R108). -/
def State.voiceEligible (s : State) (c : ServiceClass) (v : VoiceId) : Bool :=
  !s.voiceHeld v &&
    match c with
    | .start => (s.voice v).owesStart && s.quiesce.phase == .idle
    | .ending => (s.voice v).pending == some .ending
    | .pitch => (s.voice v).owesUpdate .pitch
    | .level => (s.voice v).owesUpdate .level
    | .timbre => (s.voice v).owesUpdate .timbre
    | .control => false
    | .reply => false
    | .notice => false

/-- An item that can be taken for transmission (R106). -/
inductive Item where
  | voice (v : VoiceId)
  | broadcast
  | engine (e : EngineId) (frame : Control)
  | reply
  | notice
deriving DecidableEq, Repr

/-- The rotation point of a voice class (R113); the other classes have none. -/
def VoicePoints.get (p : VoicePoints) : ServiceClass → Option VoiceId
  | .start => p.start
  | .ending => p.ending
  | .pitch => p.pitch
  | .level => p.level
  | .timbre => p.timbre
  | .control => none
  | .reply => none
  | .notice => none

/-- The rotation point of a voice class set to a record index (R113). -/
def VoicePoints.put (p : VoicePoints) (c : ServiceClass) (v : VoiceId) : VoicePoints :=
  match c with
  | .start => { p with start := some v }
  | .ending => { p with ending := some v }
  | .pitch => { p with pitch := some v }
  | .level => { p with level := some v }
  | .timbre => { p with timbre := some v }
  | .control => p
  | .reply => p
  | .notice => p

/-- A list of indexes in cyclic order, beginning after a point (R112, R113). -/
def afterPoint {n : Nat} (point : Option (Fin n)) : List (Fin n) :=
  match point with
  | none => List.finRange n
  | some p => ((List.finRange n).filter fun v => p.val < v.val) ++ (List.finRange n).filter fun v => v.val ≤ p.val

/-- The record a voice class serves next: the first eligible one after the rotation point (R113). -/
def State.nextVoice (s : State) (c : ServiceClass) : Option VoiceId :=
  (afterPoint (s.arbiter.voicePoints.get c)).find? (s.voiceEligible c)

/-- The first engine with a pending control frame, in engine order (R114). -/
def State.nextControl (s : State) : Option Item :=
  if s.broadcastHush then some .broadcast
  else engineIds.findSome? fun e => ((s.engine e).pendingControl).map (Item.engine e)

/-- Whether the head of the reply queue has been built (R106). -/
def Management.replyReady (m : Management) : Bool :=
  match m.replies with
  | e :: _ => e.result.isSome
  | [] => false

/-- The item a class would serve now, if it has an eligible one (R113, R114). -/
def State.nextItem (s : State) (c : ServiceClass) : Option Item :=
  match c with
  | .start => (s.nextVoice .start).map .voice
  | .ending => (s.nextVoice .ending).map .voice
  | .pitch => (s.nextVoice .pitch).map .voice
  | .level => (s.nextVoice .level).map .voice
  | .timbre => (s.nextVoice .timbre).map .voice
  | .control => s.nextControl
  | .reply => if s.mgmt.replyReady then some .reply else none
  | .notice => if s.mgmt.notices.isEmpty then none else some .notice

/-- The number of items eligible in a class (R119). -/
def State.eligibleCount (s : State) (c : ServiceClass) : Nat :=
  match c with
  | .start => (voiceIds.filter (s.voiceEligible .start)).length
  | .ending => (voiceIds.filter (s.voiceEligible .ending)).length
  | .pitch => (voiceIds.filter (s.voiceEligible .pitch)).length
  | .level => (voiceIds.filter (s.voiceEligible .level)).length
  | .timbre => (voiceIds.filter (s.voiceEligible .timbre)).length
  | .control =>
    cond s.broadcastHush 1 0 + (engineIds.filter fun e => (s.engine e).pendingControl.isSome).length
  | .reply => if s.mgmt.replyReady then 1 else 0
  | .notice => if s.mgmt.notices.isEmpty then 0 else 1

/-! ### Order of selection (R110 to R112) -/

/-- The band of a class (R111). -/
def BandMap.get (m : BandMap) : ServiceClass → Band
  | .start => m.start
  | .ending => m.ending
  | .pitch => m.pitch
  | .level => m.level
  | .timbre => m.timbre
  | .control => m.control
  | .reply => m.reply
  | .notice => m.notice

/-- The rotation point of a band (R112). -/
def BandPoints.get (p : BandPoints) : Band → Option ServiceClass
  | .high => p.high
  | .mid => p.mid
  | .low => p.low

/-- The rotation point of a band set to the class it has served (R112). -/
def BandPoints.put (p : BandPoints) (b : Band) (c : ServiceClass) : BandPoints :=
  match b with
  | .high => { p with high := some c }
  | .mid => { p with mid := some c }
  | .low => { p with low := some c }

/-- The classes in cyclic order of their numbers, beginning after a band's rotation point (R112). -/
def classesAfter (point : Option ServiceClass) : List ServiceClass :=
  match point with
  | none => serviceClasses
  | some p =>
    (serviceClasses.filter fun c => p.number < c.number) ++ serviceClasses.filter fun c => c.number ≤ p.number

/-- Whether a class is a member of a band: the band map assigns it there and it is not the express class (R111). -/
def Arbiter.member (a : Arbiter) (b : Band) (c : ServiceClass) : Bool :=
  a.bands.get c == b && a.express != some c

/-- What a selection takes: the class and item, and the band when it was not served as the express class. -/
structure Choice where
  cls  : ServiceClass
  item : Item
  band : Option Band
deriving DecidableEq, Repr

/-- The class a band serves next, with its item (R112). -/
def State.bandChoice (s : State) (b : Band) : Option Choice :=
  ((classesAfter (s.arbiter.bandPoints.get b)).filter (s.arbiter.member b)).findSome? fun c =>
    (s.nextItem c).map fun item => ⟨c, item, some b⟩

/-- What the express class would serve (R110). -/
def State.expressChoice (s : State) : Option Choice :=
  s.arbiter.express.bind fun c => (s.nextItem c).map fun item => ⟨c, item, none⟩

/-- What a selection takes: the express class first, then the bands HIGH, MID and LOW (R110, R111). -/
def State.choice (s : State) : Option Choice :=
  match s.expressChoice with
  | some c => some c
  | none => [Band.high, Band.mid, Band.low].findSome? s.bandChoice

/-! ### Frames (R115, R162) -/

/-- The first byte of a frame: kind and address (R162). -/
def kindByte (kind address : Nat) : Byte := byte (16 * kind + address)

/-- A START (kind 1) or RETAKE (kind 2) frame (R162). -/
def strikeFrame (kind : Nat) (v : VoiceId) (tag : Byte) (program velocity : Nat) (x : VoiceValues) : List Byte :=
  closed ([kindByte kind (engineOf v).val, byte (voiceNumber v), tag, byte program] ++ be16 x.pitch ++ [byte velocity] ++
    be16 x.level ++ [byte x.timbre])

/-- An END frame (R162). -/
def endFrame (v : VoiceId) (tag : Byte) : List Byte :=
  closed [kindByte 3 (engineOf v).val, byte (voiceNumber v), tag]

/-- A PITCH (kind 4), LEVEL (kind 5) or TIMBRE (kind 6) frame (R162). -/
def updateFrame (kind : Nat) (v : VoiceId) (value : Nat) : List Byte :=
  closed ([kindByte kind (engineOf v).val, byte (voiceNumber v)] ++ be16 value)

/-- A QUIESCE or HUSH frame to an engine (R159, R162). -/
def controlFrame (e : EngineId) : Control → List Byte
  | .quiesce => closed [kindByte 7 e.val]
  | .hush => closed [kindByte 8 e.val]

/-- The broadcast HUSH, to address 15 (R159). -/
def broadcastFrame : List Byte := closed [kindByte 8 15]

/-- A REPLY frame, to address 14 (R159, R162). -/
def replyFrame (tag code : Byte) (r : Built) : List Byte :=
  closed ([kindByte 9 14, tag, code, yesNo r.cause.isSome, (match r.cause with | some c => c.code | none => 0),
    yesNo r.overrun, byte r.data.length] ++ r.data)

/-- The subject of a notice (R162). -/
def Notice.subject : Notice → List Byte
  | .performerJoined i => [byte i.val]
  | .performerLost i => [byte i.val]
  | .engineJoined e => [byte e.val]
  | .tailTimeout v => [byte (engineOf v).val, byte (voiceNumber v)]
  | .layerDenied i e => [byte i.val, byte e]
  | .bindingApplied i k st => [byte i.val, k.code, blockByte st.target, st.timing.code]
  | .storeInterrupted x => be24 x

/-- A NOTICE frame, to address 14, with the notices-dropped flag (R159, R162, R170). -/
def noticeFrame (n : Notice) (dropped : Bool) : List Byte :=
  closed ([kindByte 10 14, byte n.code, yesNo dropped, byte n.subject.length] ++ n.subject)

/-! ### Taking an item (R91, R115) -/

/-- A voice record whose START or RETAKE has been taken: the tag advances, command and flags are cleared (R81, R91). -/
def Voice.struck (r : Voice) : Voice := { r with tag := r.tag + 1, pending := none, flags := .clear }

/-- A voice record whose END has been taken: the tail timer starts with the engine's tail limit, 64 tu a step (R91). -/
def Voice.endSent (r : Voice) (tailLimit : Nat) : Voice :=
  { r with pending := none, tailTimer := Timer.start (64 * tailLimit) }

/-- A voice record one of whose update frames has been taken (R91). -/
def Voice.updateSent (r : Voice) (x : UpdateFlag) : Voice := { r with flags := r.flags.put x false }

/-- The frame a voice record gives in a class, and the state with the effects of taking it (R115). A record that owes nothing
in the class is never chosen; it gives no bytes. -/
def State.takeVoice (s : State) (c : ServiceClass) (v : VoiceId) : List Byte × State :=
  let r := s.voice v
  let x := s.voiceValues v
  match c with
  | .start =>
    match r.pending with
    | some (.start program velocity) =>
      (strikeFrame 1 v (r.tag + 1) program velocity x, s.updVoice v Voice.struck)
    | some (.retake program velocity) =>
      (strikeFrame 2 v (r.tag + 1) program velocity x, s.updVoice v Voice.struck)
    | some .ending => ([], s)
    | none => ([], s)
  | .ending => (endFrame v r.tag, s.updVoice v (·.endSent (s.engine (engineOf v)).tailLimit))
  | .pitch => (updateFrame 4 v x.pitch, s.updVoice v (·.updateSent .pitch))
  | .level => (updateFrame 5 v x.level, s.updVoice v (·.updateSent .level))
  | .timbre => (updateFrame 6 v x.timbre, s.updVoice v (·.updateSent .timbre))
  | .control => ([], s)
  | .reply => ([], s)
  | .notice => ([], s)

/-- The quiesce record when an engine's QUIESCE has been taken: an engine of the waited set joins the sent set (R176). -/
def Quiesce.quiesceSent (q : Quiesce) (e : EngineId) : Quiesce :=
  if q.phase = .quiescing ∧ EngineSet.has q.waited e then { q with sent := EngineSet.insert q.sent e } else q

/-- An engine's pending control frame taken (R115). -/
def State.takeControl (s : State) (e : EngineId) (f : Control) : List Byte × State :=
  let s' := s.updEngine e ({ · with pendingControl := none })
  match f with
  | .quiesce => (controlFrame e .quiesce, s'.setQuiesce (s.quiesce.quiesceSent e))
  | .hush => (controlFrame e .hush, s')

/-- The head of the reply queue taken: its entry becomes free (R115, R169). -/
def State.takeReply (s : State) : List Byte × State :=
  match s.mgmt.replies with
  | ⟨tag, code, some r⟩ :: rest => (replyFrame tag code r, s.setMgmt { s.mgmt with replies := rest })
  | ⟨_, _, none⟩ :: _ => ([], s)
  | [] => ([], s)

/-- The head of the notice queue taken, with the notices-dropped flag, which is cleared (R170). -/
def State.takeNotice (s : State) : List Byte × State :=
  match s.mgmt.notices with
  | n :: rest =>
    (noticeFrame n s.mgmt.noticesDropped, s.setMgmt { s.mgmt with notices := rest, noticesDropped := false })
  | [] => ([], s)

/-- The frame of an item and the state with the effects of taking it (R115). -/
def State.takeItem (s : State) (c : ServiceClass) (item : Item) : List Byte × State :=
  match item with
  | .voice v => s.takeVoice c v
  | .broadcast => (broadcastFrame, { s with broadcastHush := false })
  | .engine e f => s.takeControl e f
  | .reply => s.takeReply
  | .notice => s.takeNotice

/-- The rotation points after a choice: the band's when a band served it, the voice class's when it is a voice
(R110, R112, R113). -/
def Arbiter.moved (a : Arbiter) (ch : Choice) : Arbiter :=
  { a with
    bandPoints :=
      match ch.band with
      | some b => a.bandPoints.put b ch.cls
      | none => a.bandPoints
    voicePoints :=
      match ch.item with
      | .voice v => a.voicePoints.put ch.cls v
      | .broadcast => a.voicePoints
      | .engine _ _ => a.voicePoints
      | .reply => a.voicePoints
      | .notice => a.voicePoints }

/-- The sending time of a frame in byte times: its length and three byte times of idle line (R160). -/
def sendingTime (frame : List Byte) : Nat := frame.length + 3

/-- The transmitter with a frame in flight (R104). -/
def Arbiter.sending (a : Arbiter) (c : ServiceClass) (frame : List Byte) : Arbiter :=
  { a with transmitter := some ⟨c, frame, sendingTime frame⟩ }

/-- A choice taken for transmission: the effects on the records, the rotation points, and the frame in flight
(R104, R115). -/
def State.take (s : State) (ch : Choice) : State :=
  let (frame, t) := s.takeItem ch.cls ch.item
  t.setArbiter ((t.arbiter.moved ch).sending ch.cls frame)

/-- What a selection takes now: nothing while the transmitter is SENDING (R105). -/
def State.selectable (s : State) : Option Choice :=
  match s.arbiter.transmitter with
  | some _ => none
  | none => s.choice

/-- The transmit completion: the transmitter becomes IDLE (R104). A completion that is commanded is taken at once, whatever is
left of the frame's sending time, and while the transmitter is IDLE it changes nothing (R160; DESIGN CHOICE, log entry 24). -/
def State.transmitDone (s : State) : State := s.setArbiter { s.arbiter with transmitter := none }

end Sys2Proof.Machine
end

