-- ==== Sys2Proof/Machine/Planner.lean ====
section
/-! DEFINITION. The Voice Planner (chapter 4): note start, transition, note end and the glide. -/

namespace Sys2Proof.Machine

/-! ### Parts of a context -/

/-- Change the timers of a context. -/
def Context.withTimers (c : Context) (f : Timers → Timers) : Context := { c with timers := f c.timers }

/-- Change the note record of a context, if there is one. -/
def Context.withNote (c : Context) (f : NoteRecord → NoteRecord) : Context := { c with note := c.note.map f }

/-- The present entries of a note's voice list, in layer order. -/
def NoteRecord.present (n : NoteRecord) : List VoiceId := n.voices.filterMap id

/-- The present voices of a performer's note, none without a note. -/
def Context.noteVoices (c : Context) : List VoiceId :=
  match c.note with
  | some n => n.present
  | none => []

/-- Whether a voice's layer copy has a legato mode (R67). -/
def State.hasLegato (s : State) (v : VoiceId) (m : Legato) : Bool :=
  match (s.voice v).copy with
  | some copy => copy.legato = m
  | none => false

/-! ### Voice lists -/

/-- One allocation request for a layer, its answer joined to the note's voice list (R66, step 4). -/
def State.allocateLayer (s : State) (i : Slot) (velocity : Nat) (index : Nat) (layer : Layer) : State :=
  let (answer, s) := s.allocate i index layer velocity
  s.updCtx i (·.withNote fun n => { n with voices := n.voices ++ [answer] })

/-- One allocation request for each layer of a list, in layer order, layer indexes counted from a number (R66, R74). -/
def State.allocateLayers (s : State) (i : Slot) (velocity : Nat) : Nat → List Layer → State
  | _, [] => s
  | index, layer :: rest => (s.allocateLayer i velocity index layer).allocateLayers i velocity (index + 1) rest

/-- The layers of a zone, none without a zone. -/
def layersOf (z : Option (Nat × Zone)) : List Layer :=
  match z with
  | some (_, zone) => zone.layers
  | none => []

/-- End requests for every present voice of a performer's note, in layer order (R74, R75). -/
def State.endVoices (s : State) (i : Slot) : State :=
  forEach (s.ctx i).noteVoices (fun v s => s.endVoice v) s

/-- Set a flag on every present voice of a performer's note that has a property. -/
def State.flagVoices (s : State) (i : Slot) (x : UpdateFlag) (p : VoiceId → Bool) : State :=
  forEach ((s.ctx i).noteVoices.filter p) (fun v s => s.flagVoice v x) s

/-! ### The glide (R66, R71, R72) -/

/-- The glide counter at rest on a pitch (R66, step 3). -/
def GlideCounter.at (pitch : Nat) : GlideCounter := ⟨pitch * 100, pitch * 100, 1, .up⟩

/-- The distance between two values. -/
def distance (a b : Nat) : Nat := (a - b) + (b - a)

/-- A division rounded up. -/
def divUp (a b : Nat) : Nat := (a + (b - 1)) / b

/-- The glide counter retargeted to a number of cents with a glide time (R71). -/
def GlideCounter.retarget (c : GlideCounter) (cents glideTime : Nat) : GlideCounter :=
  if c.current = cents then { c with target := cents }
  else
    let direction : Direction := if c.current < cents then .up else .down
    if glideTime = 0 then ⟨cents, cents, distance c.current cents, direction⟩
    else ⟨c.current, cents, divUp (distance c.current cents) glideTime, direction⟩

/-- The glide step timer after a retarget (R71). -/
def glideTimerAfter (c : GlideCounter) (cents glideTime : Nat) (t : Timer) : Timer :=
  if c.current = cents then none
  else if glideTime = 0 then none
  else if t.running then t else Timer.start 4

/-- A retarget of a performer's glide (R71). -/
def State.retargetGlide (s : State) (i : Slot) (cents glideTime : Nat) : State :=
  let c := s.ctx i
  let s' := s.updCtx i fun c =>
    { c with
      glide := c.glide.retarget cents glideTime
      timers := { c.timers with
        glideStep := glideTimerAfter c.glide cents glideTime c.timers.glideStep } }
  if c.glide.current ≠ cents ∧ glideTime = 0 then s'.flagVoices i .pitch fun v => s'.hasLegato v .glide else s'

/-- The glide counter one step toward its target, not past it (R72). -/
def GlideCounter.advance (c : GlideCounter) : GlideCounter :=
  if distance c.current c.target < c.step then { c with current := c.target }
  else
    match c.direction with
    | .up => { c with current := c.current + c.step }
    | .down => { c with current := c.current - c.step }

/-- The expiry of the glide step timer (R72). -/
def State.glideStep (s : State) (i : Slot) : State :=
  let c := s.ctx i
  if c.timers.glideStep.running then
    if c.note.isSome ∧ c.glide.current ≠ c.glide.target then
      let g := c.glide.advance
      let s' := s.updCtx i fun c =>
        { c with
          glide := g
          timers := { c.timers with glideStep := if g.current = g.target then none else Timer.start 4 } }
      s'.flagVoices i .pitch fun v => s'.hasLegato v .glide
    else s.updCtx i (·.withTimers ({ · with glideStep := none }))
  else s

/-! ### Note start, transition and note end -/

/-- A new note on a pitch (R66, steps 2 and 3), its voice list still empty. -/
def Context.beginNote (c : Context) (pitch velocity : Nat) (zone : Option Nat) : Context :=
  { c with
    note := some ⟨pitch, zone, velocity, []⟩
    glide := .at pitch
    timers := { c.timers with glideStep := none } }

/-- The Voice Planner's note start (R66). -/
def State.plannerStart (s : State) (i : Slot) (pitch velocity : Nat) : State :=
  let z := s.zoneFor i pitch
  (s.updCtx i (·.beginNote pitch velocity (z.map (·.1)))).allocateLayers i velocity 1 (layersOf z)

/-- A note end, for any cause (R75). -/
def State.noteEnd (s : State) (i : Slot) : State :=
  (s.endVoices i).updCtx i fun c =>
    { c with note := none, timers := { c.timers with glideStep := none } }

/-- A retake request for a voice of the note whose layer copy says RESTRIKE, with the program of its copy (R70). -/
def State.retakeIfRestrike (s : State) (v : VoiceId) (velocity : Nat) : State :=
  match (s.voice v).copy with
  | some copy =>
    match copy.legato with
    | .restrike => s.retakeVoice v copy.program velocity
    | .glide => s
  | none => s

/-- An in-zone transition to a pitch with the glide time of the zone found (R70). -/
def State.inZone (s : State) (i : Slot) (velocity pitch glideTime : Nat) : State :=
  let s := s.updCtx i (·.withNote ({ · with pitch := pitch }))
  let s := forEach (s.ctx i).noteVoices (fun v s => s.retakeIfRestrike v velocity) s
  s.retargetGlide i (pitch * 100) glideTime

/-- A different-zone transition to a pitch and the zone found for it (R74). -/
def State.differentZone (s : State) (i : Slot) (velocity pitch : Nat) (z : Option (Nat × Zone)) : State :=
  ((s.endVoices i).updCtx i (·.beginNote pitch velocity (z.map (·.1)))).allocateLayers i velocity 1 (layersOf z)

/-- A silent-to-silent transition to a pitch (R69). -/
def State.silentToSilent (s : State) (i : Slot) (pitch : Nat) : State :=
  s.updCtx i fun c =>
    { c.withNote ({ · with pitch := pitch }) with
      glide := { c.glide with current := pitch * 100, target := pitch * 100 }
      timers := { c.timers with glideStep := none } }

/-- A transition of a performer's note to a new pitch, by the zone of the note and that of the pitch (R69). -/
def State.transition (s : State) (i : Slot) (pitch : Nat) : State :=
  match (s.ctx i).note with
  | none => s
  | some n =>
    match n.zone, s.zoneFor i pitch with
    | none, none => s.silentToSilent i pitch
    | some k, some (k', z) =>
      if k = k' then s.inZone i n.velocity pitch z.glideTime
      else s.differentZone i n.velocity pitch (some (k', z))
    | some _, none => s.differentZone i n.velocity pitch none
    | none, some (k', z) => s.differentZone i n.velocity pitch (some (k', z))

end Sys2Proof.Machine
end

