-- ==== Sys2Proof/Machine/Performer.lean ====
section
/-! DEFINITION. The events at a Performer Context: presence (chapter 1), settling (chapter 2), breath, attack, release and
expression (chapter 3), and the application of staged bindings (chapter 8). -/

namespace Sys2Proof.Machine

/-! ### Staged bindings (R146, R153) -/

/-- The bindings with the staged binding of a kind applied (R146). -/
def Bindings.applied (b : Bindings) (k : TableKind) : Bindings :=
  match (b.get k).staged with
  | some st => b.set k ⟨st.target, none⟩
  | none => b

/-- Apply the staged binding of a kind, if its timing is the one given, and offer BINDING APPLIED (R146, R153). -/
def State.applyStaged (s : State) (i : Slot) (timing : StagedTiming) (k : TableKind) : State :=
  match ((s.ctx i).bindings.get k).staged with
  | some st =>
    if st.timing = timing then
      (s.updCtx i fun c => { c with bindings := c.bindings.applied k }).offer (.bindingApplied i k st)
    else s
  | none => s

/-- Apply every staged binding with a timing, in the order MAP, CURVE, PLAN (R146). -/
def State.applyAll (s : State) (i : Slot) (timing : StagedTiming) : State :=
  forEach tableKinds (fun k s => s.applyStaged i timing k) s

/-! ### Entering READY and ABSENT -/

/-- The phrase timer of a context started with its phrase gap: 64 tu a step (R4, R150). -/
def Context.startPhrase (c : Context) : Context :=
  c.withTimers ({ · with phrase := Timer.start (64 * c.settings.phraseGap) })

/-- The silence timer of a context started with its silence limit: 16 tu a step (R9). -/
def Context.startSilence (c : Context) : Context :=
  c.withTimers ({ · with silence := Timer.start (16 * c.settings.silenceLimit) })

/-- Entry to READY from ONSET, SOUNDING or SETTLING: the phrase timer starts and staged AT REST bindings are applied
(R147, R150). -/
def State.enterReady (s : State) (i : Slot) : State :=
  (s.updCtx i fun c => { c with state := .ready }.startPhrase).applyAll i .atRest

/-- What every entry to ABSENT leaves of a context (R11). -/
def Context.leave (c : Context) : Context :=
  { c with
    state := .absent
    timers := .stopped
    onset := none
    note := none
    candidate := false
    deferredOnset := false
    lastFrame := none
    committedPitch := none }

/-- Entry to ABSENT by silence expiry or PERFORMER DISABLE (R11). -/
def State.enterAbsent (s : State) (i : Slot) : State := (s.updCtx i (·.leave)).applyAll i .atRest

/-- The onset or the note of a performer is given up without the guard: an onset record is dropped, a candidate is dropped
without resolution, a note is ended (R10, R13, R38, R145, R175). -/
def State.abandon (s : State) (i : Slot) : State :=
  (s.updCtx i fun c =>
    { c with
      onset := none
      candidate := false
      timers := { c.timers with attack := none, settle := none } }).noteEnd i

/-! ### Settling (chapter 2) -/

/-- A settle commit on a gesture's pattern (R33). -/
def State.settleCommit (s : State) (i : Slot) (g : Gesture) : State :=
  match s.resolve i g with
  | none => s
  | some p =>
    if (s.ctx i).committedPitch = some p then s
    else (s.transition i p).updCtx i ({ · with committedPitch := some p })

/-- A context that leaves SETTLING for SOUNDING (R35, R36). -/
def Context.closeWindow (c : Context) : Context :=
  { c with state := .sounding, candidate := false, timers := { c.timers with settle := none } }

/-- Whether a frame is a pattern change: its keys or octave differ from those of the last frame (R31). -/
def Context.patternChange (c : Context) (g : Gesture) : Bool :=
  match c.lastFrame with
  | some l => l.keys ≠ g.keys || l.octave ≠ g.octave
  | none => true

/-- Step 3 of the taking of a frame, for a performer that was and is in SOUNDING or SETTLING (R31, R32, R34, R35). -/
def State.judgePattern (s : State) (i : Slot) (g : Gesture) : State :=
  let c := s.ctx i
  if c.patternChange g then
    match c.state with
    | .sounding =>
      if c.settings.settleTime = 0 then s.settleCommit i g
      else s.updCtx i fun c =>
        { c with
          state := .settling
          candidate := true
          timers := { c.timers with settle := Timer.start c.settings.settleTime } }
    | .settling =>
      if c.settings.settleTime = 0 then (s.updCtx i (·.closeWindow)).settleCommit i g
      else s.updCtx i (·.withTimers ({ · with settle := Timer.start c.settings.settleTime }))
    | .absent => s
    | .ready => s
    | .onset => s
  else s

/-- The settle expiry (R36). -/
def State.settleExpiry (s : State) (i : Slot) : State :=
  let c := s.ctx i
  if c.timers.settle.running then
    match c.state, c.lastFrame with
    | .settling, some g => (s.updCtx i (·.closeWindow)).settleCommit i g
    | _, _ => s.updCtx i (·.withTimers ({ · with settle := none }))
  else s

/-! ### Breath (chapter 3) -/

/-- A note start with an attack time on a gesture's pattern (R54). -/
def State.noteStart (s : State) (i : Slot) (attackTime : Nat) (g : Gesture) : State :=
  let velocity :=
    match s.activeCurve i with
    | some c => c.velocity attackTime
    | none => Config.unboundRead 4
  let pitch := s.choosePitch i g
  let s := s.updCtx i ({ · with committedPitch := some pitch })
  let s := s.plannerStart i pitch velocity
  s.updCtx i fun c =>
    { c with state := .sounding, onset := none, timers := { c.timers with attack := none } }

/-- The beginning of an attack on a gesture: ONSET, or with an attack window of 0 the note itself; READY is left, so the
phrase timer stops (R47, R150). -/
def State.beginOnset (s : State) (i : Slot) (g : Gesture) : State :=
  let window := (s.ctx i).settings.attackWindow
  let s := s.updCtx i (·.withTimers ({ · with phrase := none }))
  if window = 0 then s.noteStart i 0 g
  else s.updCtx i fun c =>
    { c with
      state := .onset
      onset := some ⟨s.timebase, g.breath⟩
      timers := { c.timers with attack := Timer.start window } }

/-- A ghost (R49). -/
def State.ghost (s : State) (i : Slot) : State :=
  (s.updCtx i fun c =>
    { c with onset := none, timers := { c.timers with attack := none } }).enterReady i

/-- A frame in ONSET that is not a ghost: the maximum rises, or a peak starts the note (R50). -/
def State.attackFrame (s : State) (i : Slot) (peakDrop : Nat) (g : Gesture) : State :=
  match (s.ctx i).onset with
  | none => s
  | some o =>
    let top := max o.maxBreath g.breath
    if g.breath + peakDrop ≤ top then
      (s.updCtx i fun c =>
        { c with onset := none, timers := { c.timers with attack := none } }).noteStart i (s.age o.time) g
    else s.updCtx i ({ · with onset := some ⟨o.time, top⟩ })

/-- The release of a note, which starts the re-strike guard (R37, R55, R56). -/
def State.release (s : State) (i : Slot) : State :=
  ((s.noteEnd i).updCtx i fun c =>
    { c with
      candidate := false
      timers := { c.timers with
        settle := none
        guard := Timer.startIfAny c.settings.guardTime } }).enterReady i

/-- An onset crossing in READY: deferred while the guard runs, otherwise the beginning of an attack (R47, R48). -/
def State.crossing (s : State) (i : Slot) (g : Gesture) : State :=
  if (s.ctx i).timers.guard.running then s.updCtx i ({ · with deferredOnset := true })
  else s.beginOnset i g

/-- Step 2 of the taking of a frame: the breath judgment (R46). -/
def State.judgeBreath (s : State) (i : Slot) (g : Gesture) : State :=
  match s.activeCurve i with
  | none => s
  | some curve =>
    match (s.ctx i).state with
    | .absent => s
    | .ready =>
      if (s.ctx i).bindings.allActive ∧ curve.onsetThreshold ≤ g.breath then s.crossing i g else s
    | .onset =>
      if g.breath < curve.releaseThreshold then s.ghost i else s.attackFrame i curve.peakDrop g
    | .sounding => if g.breath < curve.releaseThreshold then s.release i else s
    | .settling => if g.breath < curve.releaseThreshold then s.release i else s

/-- The attack expiry: the attack time is the length the timer was started with (R51). -/
def State.attackExpiry (s : State) (i : Slot) : State :=
  let c := s.ctx i
  match c.timers.attack with
  | none => s
  | some run =>
    let s := s.updCtx i (·.withTimers ({ · with attack := none }))
    match c.state, c.lastFrame with
    | .onset, some g => (s.updCtx i ({ · with onset := none })).noteStart i run.length g
    | _, _ => s

/-- Whether the guard expiry begins an onset on the last frame (R52, R61). -/
def State.deferredHolds (s : State) (i : Slot) (g : Gesture) : Bool :=
  (s.ctx i).deferredOnset && (s.ctx i).bindings.allActive && s.quiesce.phase == .idle &&
    match s.activeCurve i with
    | some curve => curve.onsetThreshold ≤ g.breath
    | none => false

/-- The guard expiry (R52). -/
def State.guardExpiry (s : State) (i : Slot) : State :=
  let c := s.ctx i
  if c.timers.guard.running then
    let s' := s.updCtx i fun c =>
      { c with deferredOnset := false, timers := { c.timers with guard := none } }
    match c.state, c.lastFrame with
    | .ready, some g => if s.deferredHolds i g then s'.beginOnset i g else s'
    | _, _ => s'
  else s

/-! ### Expression (R60) -/

/-- Set a flag on every present voice of a note when a derived value has changed (R60). -/
def State.flagIf (s : State) (i : Slot) (x : UpdateFlag) (changed : Bool) : State :=
  if changed then s.flagVoices i x fun _ => true else s

/-- Step 4 of the taking of a frame with a note record present: the values derived from the frame are compared with those of
the last frame (R60). -/
def State.express (s : State) (i : Slot) (g : Gesture) : State :=
  match s.activeCurve i, (s.ctx i).lastFrame with
  | some curve, some l =>
    ((s.flagIf i .level (curve.noteLevel g != curve.noteLevel l)).flagIf i .timbre
      (curve.timbre g != curve.timbre l)).flagIf i .pitch (curve.lipBend g != curve.lipBend l)
  | _, _ => s

/-! ### The taking of a frame (R7, R8) -/

/-- Whether a performer is in SOUNDING or SETTLING. -/
def PerformerState.inNote : PerformerState → Bool
  | .absent => false
  | .ready => false
  | .onset => false
  | .sounding => true
  | .settling => true

/-- The join of a performer (R8). -/
def State.join (s : State) (i : Slot) : State :=
  ((s.updCtx i fun c => ({ c with state := .ready }.startSilence).startPhrase).applyAll i .atRest).offer
    (.performerJoined i)

/-- Steps 2 to 5 of the taking of a frame (R7). A frame on which a note starts sets no flag (R54). -/
def State.takeFrame (s : State) (i : Slot) (g : Gesture) : State :=
  let before := (s.ctx i).state
  let s := s.judgeBreath i g
  let s := if before.inNote && (s.ctx i).state.inNote then s.judgePattern i g else s
  let s := if before.inNote && (s.ctx i).note.isSome then s.express i g else s
  s.updCtx i ({ · with lastFrame := some g })

/-- A GESTURE frame at the context of its slot (R7). -/
def State.gestureAt (s : State) (i : Slot) (g : Gesture) : State :=
  let c := s.ctx i
  if c.enabled then
    match c.state with
    | .absent => (s.join i).takeFrame i g
    | .ready => (s.updCtx i (·.startSilence)).takeFrame i g
    | .onset => (s.updCtx i (·.startSilence)).takeFrame i g
    | .sounding => (s.updCtx i (·.startSilence)).takeFrame i g
    | .settling => (s.updCtx i (·.startSilence)).takeFrame i g
  else s

/-! ### Silence and phrase expiries -/

/-- The silence expiry (R10). -/
def State.silenceExpiry (s : State) (i : Slot) : State :=
  let c := s.ctx i
  if c.timers.silence.running then
    match c.state with
    | .absent => s.updCtx i (·.withTimers ({ · with silence := none }))
    | .ready => ((s.abandon i).enterAbsent i).offer (.performerLost i)
    | .onset => ((s.abandon i).enterAbsent i).offer (.performerLost i)
    | .sounding => ((s.abandon i).enterAbsent i).offer (.performerLost i)
    | .settling => ((s.abandon i).enterAbsent i).offer (.performerLost i)
  else s

/-- The phrase expiry (R150). -/
def State.phraseExpiry (s : State) (i : Slot) : State :=
  let c := s.ctx i
  if c.timers.phrase.running then
    let s := s.updCtx i (·.withTimers ({ · with phrase := none }))
    match c.state with
    | .ready => s.applyAll i .atPhrase
    | .absent => s
    | .onset => s
    | .sounding => s
    | .settling => s
  else s

end Sys2Proof.Machine
end

