-- ==== Sys2Proof/Machine/Store.lean ====
section
/-! DEFINITION. Table Memory (chapter 7): the images of a write, the checks of a commit, the checksum, and the start and the
completion of the operations that take time. -/

namespace Sys2Proof.Machine

/-! ### The positions of a block (R122) -/

/-- Write a position of a list of cells, keeping the positions strictly rising. -/
def putCell (position : Nat) (x : Image) : List Cell → List Cell
  | [] => [(position, x)]
  | c :: cs =>
    if position < c.1 then (position, x) :: c :: cs
    else if position = c.1 then (position, x) :: cs
    else c :: putCell position x cs

/-- Write a run of images at the positions from a first one on (R129). -/
def putRun (first : Nat) : List Image → List Cell → List Cell
  | [], cells => cells
  | x :: xs, cells => putRun (first + 1) xs (putCell first x cells)

/-- The canonical form of a block's positions: strictly rising and below 128. A blank position is not listed. -/
def cellsWf (cells : List Cell) : Bool :=
  cells.Pairwise (fun a b => a.1 < b.1) && cells.all fun c => c.1 < 128

/-- The first position of a range with a property. -/
def firstPosition (first last : Nat) (p : Nat → Bool) : Option Nat :=
  (List.range' first (last + 1 - first)).find? p

/-! ### Format checks at commit (R125) -/

/-- A number within a range. -/
def within (low high n : Nat) : Bool := low ≤ n && n ≤ high

/-- A signed number within a range. -/
def withinInt (low high n : Int) : Bool := low ≤ n && n ≤ high

/-- The condition of R125 on a header image of a kind. -/
def headerOk (k : TableKind) (h : Image) : Bool :=
  match k with
  | .map => within 1 96 (entryCount h) && u8At h 2 ≤ 127 && u8At h 3 ≤ 127
  | .curve =>
    within 4 24 (entryCount h) && within 2 16 (u8At h 2) &&
      within (u8At h 2 + 2) (u8At h 2 + 8) (entryCount h) &&
      u16At h 3 ≤ 1023 && u16At h 5 ≤ 1023 && u16At h 5 < u16At h 3 &&
      within 1 63 (u8At h 7) && u8At h 8 ≤ 127 && u8At h 9 ≤ 200
  | .plan => within 1 8 (entryCount h)

/-- The condition of R125 on a Fingering Map entry. -/
def mapEntryOk (x : Image) : Bool :=
  withinInt (-48) 48 (s8At x 6) && u8At x 7 ≤ 1 && keysAt x 0 &&& ~~~(keysAt x 3) == 0

/-- The condition of R125 on a breath point, with the image of the position before it from position 2 on. -/
def breathPointOk (before : Option Image) (x : Image) : Bool :=
  u16At x 0 ≤ 1023 && u16At x 2 ≤ 16383 &&
    match before with
    | some y => u16At y 0 < u16At x 0
    | none => true

/-- The condition of R125 on a velocity point, with the image of the velocity point before it. -/
def velocityPointOk (before : Option Image) (x : Image) : Bool :=
  u16At x 0 ≤ 255 && within 1 127 (u16At x 2) &&
    match before with
    | some y => u16At y 0 < u16At x 0
    | none => true

/-- The condition of R125 on a layer slot of a zone image. -/
def layerOk (x : Image) (slot : Nat) : Bool :=
  u8At x (4 + 5 * slot) ≤ 3 && u8At x (4 + 5 * slot + 1) ≤ 127 && withinInt (-24) 24 (s8At x (4 + 5 * slot + 2)) &&
    u8At x (4 + 5 * slot + 3) ≤ 100 && u8At x (4 + 5 * slot + 4) ≤ 1

/-- The condition of R125 on a zone; slots beyond the layer count are not checked (R164). -/
def zoneOk (x : Image) : Bool :=
  u8At x 0 ≤ 127 && u8At x 1 ≤ 127 && u8At x 0 ≤ u8At x 1 && within 1 4 (u8At x 3) &&
    (List.range (u8At x 3)).all (layerOk x)

/-- The condition of R125 on the entry at a position of a block of a kind with a header. -/
def Block.entryOk (b : Block) (k : TableKind) (h : Image) (position : Nat) : Bool :=
  match b.image position with
  | none => false
  | some x =>
    match k with
    | .map => mapEntryOk x
    | .curve =>
      if position ≤ u8At h 2 then breathPointOk (if position = 1 then none else b.image (position - 1)) x
      else velocityPointOk (if position = u8At h 2 + 1 then none else b.image (position - 1)) x
    | .plan => zoneOk x

/-! ### The checksum (R126) -/

/-- The bytes of a position as the checksum counts them: its image, or zeros of the length its position would have. -/
def Block.countedBytes (b : Block) (k : TableKind) (position : Nat) : List Byte :=
  match b.image position with
  | some x => x
  | none => List.replicate (k.imageLength position) 0

/-- The sum of bytes, each multiplied by its number, numbers counted from one given. -/
def weightedSum : Nat → List Byte → Nat
  | _, [] => 0
  | n, x :: xs => n * x.toNat + weightedSum (n + 1) xs

/-- The checksum of a block of a kind over positions 0 to a last one (R126). -/
def Block.checksum (b : Block) (k : TableKind) (last : Nat) : Nat :=
  weightedSum 1 ((List.range (last + 1)).flatMap (b.countedBytes k)) % 65536

/-- The last position a VERIFY or COMMIT considers: the header's entry count, at most 127 (R124). -/
def Block.lastPosition (b : Block) : Nat :=
  match b.header with
  | some h => min 127 (entryCount h)
  | none => Config.unboundRead 5

/-- The checksum of a block as it stands, over positions 0 to entry count (R126, R131). Only an OPEN or
VALID block is asked, and both have a kind and a header (log entry 13). -/
def Block.computedChecksum (b : Block) : Nat :=
  match b.kind with
  | some k => b.checksum k b.lastPosition
  | none => Config.unboundRead 6

/-- Why TABLE COMMIT refuses an OPEN block, with the refusal data: the tests of R130 in their order. -/
def Block.commitFault (b : Block) (checksum : Nat) : Option (Cause × List Byte) :=
  match b.kind, b.header with
  | some k, some h =>
    if !headerOk k h then some (.badEntry, [0])
    else
      match firstPosition 1 (entryCount h) fun p => !b.written p with
      | some p => some (.missingEntry, [byte p])
      | none =>
        match firstPosition (entryCount h + 1) 127 b.written with
        | some p => some (.badEntry, [byte p])
        | none =>
          match firstPosition 1 (entryCount h) fun p => !b.entryOk k h p with
          | some p => some (.badEntry, [byte p])
          | none =>
            if b.computedChecksum = checksum then none
            else some (.checksumMismatch, be16 b.computedChecksum)
  | _, _ => some (.badEntry, [0])

/-! ### The images of a write (R129, R164) -/

/-- The whole images that bytes divide into from a position on; `none` when they do not divide. The number bounds how many
images are cut. -/
def cutImages (k : TableKind) : Nat → Nat → List Byte → Option (List Image)
  | _, _, [] => some []
  | 0, _, _ :: _ => none
  | n + 1, position, x :: xs =>
    let len := k.imageLength position
    if (x :: xs).length < len then none
    else (cutImages k n (position + 1) ((x :: xs).drop len)).map fun rest => (x :: xs).take len :: rest

/-- The kind by which the images of a write are judged: the block's own, or that of the header image for a BLANK block
(R129). -/
def Block.writeKind (b : Block) (images : List Byte) : Option TableKind :=
  match b.state with
  | .blank => tableKindOf (byteAt images 0)
  | .opened => b.kind
  | .valid => b.kind
  | .incomplete => b.kind

/-- The block state a refusal reports: 4 while an operation is in flight (R163). -/
def Block.stateByte (b : Block) : Byte := if b.op.isSome then 4 else b.state.code

/-- Whether an operation is in flight on a block, or its state is not the one a command needs. -/
def Block.notIn (b : Block) (p : BlockState → Bool) : Bool := b.op.isSome || !p b.state

/-- Whether a block state takes a write (R129). -/
def BlockState.writable : BlockState → Bool
  | .blank => true
  | .opened => true
  | .valid => false
  | .incomplete => false

/-- What TABLE WRITE finds: a refusal, or the images it will write (R129). -/
inductive WriteJudgment where
  | refuse (cause : Cause) (data : List Byte)
  | accept (images : List Image)
deriving DecidableEq, Repr

/-- The tests of R129 after the block's state tests: a first position and the bytes of the images. -/
def Block.judgeRun (b : Block) (first : Nat) (bytes : List Byte) : WriteJudgment :=
  if 127 < first then .refuse .badValue []
  else if bytes.isEmpty then .refuse .badLength []
  else if b.state = .blank ∧ first ≠ 0 then .refuse .noHeader []
  else if first = 0 ∧ (tableKindOf (byteAt bytes 0)).isNone then .refuse .badValue []
  else
    match (b.writeKind bytes).bind fun k => cutImages k 8 first bytes with
    | none => .refuse .badLength []
    | some images =>
      if 128 < first + images.length then .refuse .badValue []
      else
        match firstPosition first (first + images.length - 1) b.written with
        | some p => .refuse .alreadyWritten [byte p]
        | none => .accept images

/-- The tests of TABLE WRITE on a block, in the order of R129. -/
def Block.judgeWrite (b : Block) (bound : Bool) (first : Nat) (bytes : List Byte) : WriteJudgment :=
  if b.op.isSome then .refuse .blockState [4]
  else if bound then .refuse .bound []
  else if b.locked then .refuse .locked []
  else if !b.state.writable then .refuse .blockState [b.state.code]
  else b.judgeRun first bytes

/-! ### Starting an operation (R127) -/

/-- The bound R127 states on an operation's time, in tu. -/
def StoreOp.limit : StoreOp → Nat
  | .erase => 160
  | .write => 8
  | .commit => 8
  | .lock => 8

/-- The time the operation begun now takes: a free value from 1 tu to the stated bound (log entry 5). -/
def storeInterval (count : Nat) (op : StoreOp) : Nat := 1 + Config.storeTime count % op.limit

/-- The start of an operation on a block: the mark is set, an erasure raises the erase count (R127, R128). -/
def Block.begun (b : Block) (op : StoreOp) : Block :=
  match op with
  | .erase => { b with op := some op, eraseCount := b.eraseCount + 1 }
  | .write => { b with op := some op }
  | .commit => { b with op := some op }
  | .lock => { b with op := some op }

/-- Start an operation on a block (R127). -/
def State.beginStore (s : State) (b : BlockId) (op : StoreOp) : State :=
  { (s.updBlock b (·.begun op)).countFree with storeTimer := Timer.start (storeInterval s.freeCount op) }

/-! ### Completing an operation (R128 to R130, R134) -/

/-- A block after an erasure's completion (R128). -/
def Block.erased (b : Block) : Block :=
  { b with cells := [], kind := none, state := .blank, op := none }

/-- A block after a write's completion: the run is written, and a header in the run sets the kind (R129, R123). -/
def Block.afterWrite (b : Block) (first : Nat) (images : List Image) : Block :=
  { b with
    cells := putRun first images b.cells
    state := .opened
    kind := if first = 0 then
        match images with
        | h :: _ => tableKindOf (byteAt h 0)
        | [] => b.kind
      else b.kind
    op := none }

/-- A block after a commit's completion (R130). -/
def Block.committed (b : Block) : Block := { b with state := .valid, op := none }

/-- A block after a lock's completion (R134). -/
def Block.lockedNow (b : Block) : Block := { b with locked := true, op := none }

/-- A block whose operation was cut short, at the next start-up (R139). Its positions stay as they were until an erasure
(R122); no command reads them. -/
def Block.interrupted (b : Block) : Block :=
  { b with state := .incomplete, kind := none, locked := false, op := none }

/-- The operation in flight has ended: its timer stops. -/
def State.storeDone (s : State) : State := { s with storeTimer := none }

/-! ### STORE CLEAR (R136) -/

/-- The lowest-numbered bound block, if any is bound (R136). -/
def State.lowestBound (s : State) : Option BlockId := blockIds.find? s.bound

/-- STORE CLEAR reaches a block, with a number erased and a set of blocks passed over so far: the block's lock is removed; a
block that is not worn begins its erasure, a worn one is passed over, with no operation in flight, by an event that is due at
once (R136, R139; log entry 25). -/
def State.clearReach (s : State) (b : BlockId) (erased : Nat) (worn : BlockSet) : State × Work :=
  let s := s.updBlock b ({ · with locked := false })
  if (s.block b).eraseCount < 1000 then (s.beginStore b .erase, .storeClear b erased worn)
  else ({ s with storeTimer := Timer.start 0 }, .passOver b erased worn)

/-- The reply data of STORE CLEAR (R163). -/
def clearData (erased : Nat) (worn : BlockSet) : List Byte := byte erased :: be24 worn

end Sys2Proof.Machine
end

