-- ==== Sys2Proof/Machine/Restart.lean ====
section
/-! DEFINITION. The Restart Controller (chapter 11): the quiesce, its end, the effects of the SECTION and FULL resets, hard
reset, loss of power and start-up. -/

namespace Sys2Proof.Machine

/-! ### The quiesce record (R173, R176) -/

/-- The engines of the waited set that have not answered. -/
def Quiesce.unacknowledged (q : Quiesce) : EngineSet := q.waited &&& ~~~q.acknowledged

/-- Whether every engine of the waited set of a quiesce in progress has answered (R176). -/
def Quiesce.complete (q : Quiesce) : Bool := q.phase == .quiescing && q.unacknowledged == 0

/-- A QUIESCE ACK from an engine: counted if its QUIESCE was sent and it has not answered yet (R176). -/
def Quiesce.answered (q : Quiesce) (e : EngineId) : Quiesce :=
  if q.phase = .quiescing ∧ EngineSet.has q.waited e ∧ EngineSet.has q.sent e ∧ ¬ EngineSet.has q.acknowledged e then
    { q with acknowledged := EngineSet.insert q.acknowledged e }
  else q

/-- A HELLO from an engine during a quiesce: it is waited for no longer (R176). -/
def Quiesce.rejoined (q : Quiesce) (e : EngineId) : Quiesce :=
  match q.phase with
  | .quiescing =>
    { q with
      waited := EngineSet.erase q.waited e
      sent := EngineSet.erase q.sent e
      acknowledged := EngineSet.erase q.acknowledged e }
  | .idle => q

/-! ### The beginning of a quiesce (R175) -/

/-- Whether the beginning of a quiesce ends something at a context (R175, step 2). -/
def PerformerState.active : PerformerState → Bool
  | .absent => false
  | .ready => false
  | .onset => true
  | .sounding => true
  | .settling => true

/-- The beginning of a quiesce at one context (R175, step 2). -/
def State.quiesceContext (s : State) (i : Slot) : State :=
  if (s.ctx i).state.active then (s.abandon i).enterReady i else s

/-- The present engines (R175, step 3). -/
def State.presentEngines (s : State) : EngineSet := EngineSet.ofPred fun e => (s.engine e).present

/-- A pending control frame set for every engine of a set; it replaces an earlier one (R99). -/
def State.demand (s : State) (x : EngineSet) (f : Control) : State :=
  s.mapEngines fun e r => if EngineSet.has x e then { r with pendingControl := some f } else r

/-- The beginning of a quiesce with a kind and a limit in 4 ms steps of 16 tu (R175, steps 1 to 4). -/
def State.quiesceBegin (s : State) (kind : ResetKind) (limit : Nat) : State :=
  let s := s.setQuiesce { s.quiesce with phase := .quiescing, kind := some kind }
  let s := forEach slots (fun i s => s.quiesceContext i) s
  let waited := s.presentEngines
  (s.demand waited .quiesce).setQuiesce
    { s.quiesce with waited := waited, sent := 0, acknowledged := 0, limit := Timer.start (16 * limit) }

/-! ### The effects of SECTION and FULL (R178) -/

/-- The state a SECTION reset leaves a performer in (R22). -/
def PerformerState.afterSection : PerformerState → PerformerState
  | .absent => .absent
  | .ready => .ready
  | .onset => .ready
  | .sounding => .ready
  | .settling => .ready

/-- A context after the effects of a SECTION reset, before its staged AT REST bindings are applied (R22). -/
def Context.afterSection (c : Context) : Context :=
  { c with
    state := c.state.afterSection
    committedPitch := none
    onset := none
    deferredOnset := false
    note := none
    candidate := false
    glide := .rest
    timers := .stopped }

/-- Whether a voice record exists at its engine: the engine is present and the voice number below its count (R80, R103). -/
def State.voiceExists (s : State) (v : VoiceId) : Bool :=
  (s.engine (engineOf v)).present &&
    match (s.engine (engineOf v)).voiceCount with
    | some n => voiceNumber v < n
    | none => false

/-- The effects of a SECTION reset (R22, R103, R178). -/
def State.sectionEffects (s : State) : State :=
  let s' := s.mapContexts fun _ c => c.afterSection
  let s' := forEach slots (fun i s => s.applyAll i .atRest) s'
  s'.mapVoices fun v r => r.emptied (if s.voiceExists v then .free else .disabled)

/-- The effects of a FULL reset (R21, R103, R120, R172, R178). -/
def State.fullEffects (s : State) : State :=
  let s' := s.mapContexts fun _ _ => Context.initial
  let s' := s'.mapVoices fun _ _ => Voice.initial
  let s' := s'.mapEngines fun _ r => { Engine.initial with pendingControl := r.pendingControl }
  let s' := s'.setArbiter { Arbiter.initial with transmitter := s.arbiter.transmitter }
  s'.setMgmt { s'.mgmt with mask := Management.initial.mask }

/-- The effects of the RESET in progress (R178). -/
def State.resetEffects (s : State) : State :=
  match s.quiesce.kind with
  | some .sectionOnly => s.sectionEffects
  | some .full => s.fullEffects
  | none => s

/-- The set of engines as a byte (R161). -/
def engineSetByte (x : EngineSet) : Byte := x.setWidth 8

/-- The end of a quiesce with a hushed set: HUSH is set pending for its engines, the effects are taken, the record returns to
IDLE and the reply of the RESET is built (R177, R178 steps 1 to 3). -/
def State.quiesceEnd (s : State) (forced : Bool) (hushed : EngineSet) : State :=
  (((s.demand hushed .hush).resetEffects).setQuiesce .idle).buildReply none [yesNo forced, engineSetByte hushed]

/-- The test after each event of a quiesce: it ends CLEAN when every engine waited for has answered (R176, R177). -/
def State.quiesceTest (s : State) : State := if s.quiesce.complete then s.quiesceEnd false 0 else s

/-- The expiry of the limit timer: FORCED, with the engines that have not answered hushed (R177). -/
def State.limitExpired (s : State) : State :=
  match s.quiesce.phase with
  | .quiescing => s.quiesceEnd true s.quiesce.unacknowledged
  | .idle => s.setQuiesce { s.quiesce with limit := none }

/-! ### Hard reset, loss of power, start-up (R139, R140, R179) -/

/-- Every volatile record at its hard reset value, Table Memory as it stands (R20, R62, R78, R103, R120, R165, R172, R173).
The broadcast HUSH flag is set by the start-up that follows. -/
def State.cleared (s : State) (p : Power) : State :=
  { State.reset with
    broadcastHush := false
    blocks := s.blocks
    power := p
    freeCount := s.freeCount
    pending := s.pending }

/-- The blocks whose operation in flight mark is set (R140). -/
def State.interruptedBlocks (s : State) : BlockSet := BlockSet.ofPred fun b => (s.block b).op.isSome

/-- Start-up after a hard reset, in the order of R179: the timebase reads 0, the broadcast HUSH flag is set, interrupted blocks
become INCOMPLETE, and one STORE INTERRUPTED notice names them (R140). -/
def State.startedUp (s : State) : State :=
  let x := s.interruptedBlocks
  let s := { s with timebase := 0, broadcastHush := true, power := .running }
  let s := s.mapBlocks fun _ r => if r.op.isSome then r.interrupted else r
  if x = 0 then s else s.offer (.storeInterrupted x)

end Sys2Proof.Machine
end

