-- ==== Sys2Proof/Machine/Console.lean ====
section
/-! DEFINITION. The console's commands, judged and carried out (R168 and the owning chapters), and their reply data (R163). -/

namespace Sys2Proof.Machine

/-- What judging and carrying out a command gives: it is done with reply data, it is refused, or it is in progress until its
completion (R167, R168). -/
inductive Answer where
  | done (s : State) (data : List Byte)
  | refused (cause : Cause) (data : List Byte)
  | started (s : State) (work : Work)
deriving DecidableEq, Repr

/-- A parameter length that does not suit the command (R168, step 2). -/
def badLength : Answer := .refused .badLength []

/-- A parameter that holds no value its command allows (R168, step 3). -/
def badValue : Answer := .refused .badValue []

/-! ### Performer commands (chapter 1) -/

/-- A setting's value: whether a byte is in the range of a setting number (R16). -/
def settingOk (number : Nat) (v : Byte) : Bool :=
  match number with
  | 1 => 1 ≤ v.toNat && v.toNat ≤ 4
  | 2 => -24 ≤ v.toInt && v.toInt ≤ 24
  | 3 => true
  | 4 => true
  | 5 => true
  | 6 => 1 ≤ v.toNat
  | 7 => 1 ≤ v.toNat
  | _ => false

/-- The settings with one of them set to a byte (R16, R18). -/
def Settings.put (x : Settings) (number : Nat) (v : Byte) : Settings :=
  match number with
  | 1 => { x with precedence := v.toNat }
  | 2 => { x with transpose := v.toInt }
  | 3 => { x with settleTime := v.toNat }
  | 4 => { x with attackWindow := v.toNat }
  | 5 => { x with guardTime := v.toNat }
  | 6 => { x with silenceLimit := v.toNat }
  | 7 => { x with phraseGap := v.toNat }
  | _ => x

/-- The seven settings in setting-number order (R163). -/
def Settings.bytes (x : Settings) : List Byte :=
  [byte x.precedence, signedByte x.transpose, byte x.settleTime, byte x.attackWindow, byte x.guardTime,
    byte x.silenceLimit, byte x.phraseGap]

/-- The pairs of setting number and value in a parameter list (R163). -/
def pairsOf : List Byte → List (Nat × Byte)
  | n :: v :: rest => (n.toNat, v) :: pairsOf rest
  | _ => []

/-- Whether every pair may be set: known numbers, none twice, values in range (R18). -/
def pairsOk (pairs : List (Nat × Byte)) : Bool :=
  (pairs.map (·.1)).Nodup && pairs.all fun p => settingOk p.1 p.2

/-- PERFORMER SET (R18). -/
def State.performerSet (s : State) (params : List Byte) : Answer :=
  match params with
  | [] => badLength
  | x :: rest =>
    if rest.length % 2 = 0 ∧ 2 ≤ rest.length ∧ rest.length ≤ 14 then
      match indexOf 8 x with
      | none => badValue
      | some i =>
        if pairsOk (pairsOf rest) then
          let settings := (pairsOf rest).foldl (fun st p => st.put p.1 p.2) (s.ctx i).settings
          .done (s.updCtx i ({ · with settings := settings })) (x :: settings.bytes)
        else badValue
    else badLength

/-- PERFORMER ENABLE (R14). -/
def State.performerEnable (s : State) (params : List Byte) : Answer :=
  match params with
  | [x] =>
    match indexOf 8 x with
    | none => badValue
    | some i => .done (s.updCtx i ({ · with enabled := true })) [x]
  | _ => badLength

/-- What PERFORMER DISABLE does at a context (R13). -/
def State.disable (s : State) (i : Slot) : State :=
  let c := s.ctx i
  if c.enabled then
    let s := s.updCtx i ({ · with enabled := false })
    match c.state with
    | .absent => s
    | .ready => (s.abandon i).enterAbsent i
    | .onset => (s.abandon i).enterAbsent i
    | .sounding => (s.abandon i).enterAbsent i
    | .settling => (s.abandon i).enterAbsent i
  else s

/-- PERFORMER DISABLE (R13). -/
def State.performerDisable (s : State) (params : List Byte) : Answer :=
  match params with
  | [x] =>
    match indexOf 8 x with
    | none => badValue
    | some i => .done (s.disable i) [x, (s.ctx i).state.code]
  | _ => badLength

/-- The last frame in a report: present, keys, octave, breath, bite, lip; all 0 when absent (R163). -/
def lastFrameBytes (g : Option Gesture) : List Byte :=
  match g with
  | some g => 1 :: be24 g.keys ++ [signedByte g.octave] ++ be16 g.breath ++ [byte g.bite, byte g.lip]
  | none => List.replicate 9 0

/-- The timers running, as a byte (R163). -/
def Timers.runningByte (t : Timers) : Byte :=
  byte (cond t.settle.running 1 0 + cond t.attack.running 2 0 + cond t.guard.running 4 0 +
    cond t.silence.running 8 0 + cond t.phrase.running 16 0 + cond t.glideStep.running 32 0)

/-- An optional voice record index in a report (R161). -/
def voiceByte (o : Option VoiceId) : Byte := optByte (o.map (·.val))

/-- The note record in a report: present, pitch, zone index, velocity, list length and four list entries (R163). -/
def noteBytes (n : Option NoteRecord) : List Byte :=
  match n with
  | some n =>
    [1, byte n.pitch, optByte n.zone, byte n.velocity, byte n.voices.length] ++
      (n.voices.map voiceByte ++ List.replicate 4 0xFF).take 4
  | none => [0, 0, 0, 0, 0, 0xFF, 0xFF, 0xFF, 0xFF]

/-- The bindings of a kind in a report (R163). -/
def bindingBytes (b : Binding) : List Byte := blockByte b.active :: stagedBytes b.staged

/-- The 40 bytes of the PERFORMER READ reply (R19, R163). -/
def Context.report (c : Context) (slot : Byte) : List Byte :=
  [slot, yesNo c.enabled, c.state.code] ++ c.settings.bytes ++ lastFrameBytes c.lastFrame ++
    [optByte c.committedPitch, yesNo c.deferredOnset, c.timers.runningByte] ++ noteBytes c.note ++
    bindingBytes c.bindings.map ++ bindingBytes c.bindings.curve ++ bindingBytes c.bindings.plan

/-- PERFORMER READ (R19). -/
def State.performerRead (s : State) (params : List Byte) : Answer :=
  match params with
  | [x] =>
    match indexOf 8 x with
    | none => badValue
    | some i => .done s ((s.ctx i).report x)
  | _ => badLength

/-! ### BIND (chapter 8) -/

/-- The timing of a BIND (R143, R161). -/
inductive BindTiming where
  | now | atRest | atPhrase
deriving DecidableEq, Repr

/-- The timing a byte names (R161). -/
def bindTimingOf (b : Byte) : Option BindTiming :=
  if b = 0 then some .now else if b = 1 then some .atRest else if b = 2 then some .atPhrase else none

/-- The target a byte names: "none" for FFh, otherwise a block below 24 (R143, R161). -/
def targetOf (b : Byte) : Option (Option BlockId) :=
  if b = 0xFF then some none else (indexOf 24 b).map some

/-- Write the bindings of one kind of a context. -/
def Context.setBinding (c : Context) (k : TableKind) (b : Binding) : Context :=
  { c with bindings := c.bindings.set k b }

/-- BIND NOW of a block (R144). -/
def State.bindNow (s : State) (i : Slot) (k : TableKind) (b : BlockId) : State :=
  s.updCtx i (·.setBinding k ⟨some b, none⟩)

/-- BIND NOW "none" (R145). -/
def State.bindNone (s : State) (i : Slot) (k : TableKind) : State :=
  let c := s.ctx i
  let s := s.updCtx i (·.setBinding k ⟨none, none⟩)
  if (c.bindings.get k).active.isSome ∧ c.state.active then (s.abandon i).enterReady i else s

/-- Stage a binding of a kind, replacing one already staged (R147, R149). -/
def State.stage (s : State) (i : Slot) (k : TableKind) (st : Staged) : State :=
  s.updCtx i fun c => c.setBinding k ⟨(c.bindings.get k).active, some st⟩

/-- BIND AT REST, and whether it was applied within its own event (R147). -/
def State.bindAtRest (s : State) (i : Slot) (k : TableKind) (target : Option BlockId) : State × Bool :=
  if (s.ctx i).state.active then (s.stage i k ⟨target, .atRest⟩, false)
  else (s.updCtx i (·.setBinding k ⟨target, none⟩), true)

/-- BIND AT PHRASE: in READY with the phrase timer stopped it starts the timer (R148). -/
def State.bindAtPhrase (s : State) (i : Slot) (k : TableKind) (target : Option BlockId) : State :=
  let s := s.stage i k ⟨target, .atPhrase⟩
  if (s.ctx i).state = .ready ∧ ¬ (s.ctx i).timers.phrase.running then s.updCtx i (·.startPhrase) else s

/-- An accepted BIND at its context, and whether it was applied within its own event (R143 to R148). -/
def State.bindAt (s : State) (i : Slot) (k : TableKind) (target : Option BlockId) (t : BindTiming) : State × Bool :=
  match t with
  | .now =>
    match target with
    | some b => (s.bindNow i k b, true)
    | none => (s.bindNone i k, true)
  | .atRest => s.bindAtRest i k target
  | .atPhrase => (s.bindAtPhrase i k target, false)

/-- The reply of an accepted BIND: slot, kind, bindings of the kind as they stand after it, applied or not (R143, R163). -/
def State.bindDone (s : State) (i : Slot) (k : TableKind) (target : Option BlockId) (t : BindTiming) : Answer :=
  let (s, applied) := s.bindAt i k target t
  .done s ([byte i.val, k.code] ++ bindingBytes ((s.ctx i).bindings.get k) ++ [yesNo applied])

/-- BIND (R143). -/
def State.bindCommand (s : State) (params : List Byte) : Answer :=
  match params with
  | [slot, kind, target, timing] =>
    match indexOf 8 slot, tableKindOf kind, bindTimingOf timing, targetOf target with
    | some i, some k, some t, some none => s.bindDone i k none t
    | some i, some k, some t, some (some b) =>
      if (s.block b).state ≠ .valid then .refused .notValid [(s.block b).stateByte]
      else if (s.block b).kind ≠ some k then .refused .wrongKind [optKindByte (s.block b).kind]
      else s.bindDone i k (some b) t
    | _, _, _, _ => badValue
  | _ => badLength

/-! ### Engine and voice commands (chapter 5) -/

/-- ENGINE SET (R100). -/
def State.engineSet (s : State) (params : List Byte) : Answer :=
  match params with
  | [x, limit] =>
    match indexOf 4 x with
    | none => badValue
    | some e =>
      if limit = 0 then badValue
      else .done (s.updEngine e ({ · with tailLimit := limit.toNat })) [x, limit]
  | _ => badLength

/-- Pending control in a report (R161). -/
def controlByte (o : Option Control) : Byte :=
  match o with
  | some .quiesce => 1
  | some .hush => 2
  | none => 0

/-- How many records of an engine have a property (R101). -/
def State.countVoices (s : State) (e : EngineId) (p : Voice → Bool) : Nat :=
  ((engineVoices e.val).filter fun v => p (s.voice v)).length

/-- The 13 bytes of the ENGINE READ reply (R101, R163). -/
def State.engineReport (s : State) (e : EngineId) : List Byte :=
  let r := s.engine e
  [byte e.val, yesNo r.present, byte (match r.voiceCount with | some n => n | none => 0), yesNo r.held,
    byte r.tailLimit, controlByte r.pendingControl,
    byte (s.countVoices e (·.state == .disabled)), byte (s.countVoices e (·.state == .free)),
    byte (s.countVoices e (·.state == .sounding)), byte (s.countVoices e (·.state == .releasing)),
    byte (s.countVoices e (·.pending.isSome)), byte (s.countVoices e (·.flags.any)), yesNo s.broadcastHush]

/-- ENGINE READ (R101). -/
def State.engineRead (s : State) (params : List Byte) : Answer :=
  match params with
  | [x] =>
    match indexOf 4 x with
    | none => badValue
    | some e => .done s (s.engineReport e)
  | _ => badLength

/-- A layer copy in a report, all FFh when absent (R163). -/
def copyBytes (o : Option Layer) : List Byte :=
  match o with
  | some x => [byte x.engine, byte x.program, signedByte x.transpose, byte x.levelScale, x.legato.code]
  | none => List.replicate 5 0xFF

/-- A pending command in a report, with its program and velocity (R161, R163). -/
def pendingBytes (o : Option Discrete) : List Byte :=
  match o with
  | some (.start p v) => [1, byte p, byte v]
  | some (.retake p v) => [2, byte p, byte v]
  | some .ending => [3, 0, 0]
  | none => [0, 0, 0]

/-- The 23 bytes of the VOICE READ reply (R102, R163). -/
def Voice.report (r : Voice) (index : Byte) : List Byte :=
  [index, r.state.code, optByte (r.owner.map (·.val)), byte (match r.layer with | some n => n | none => 0)] ++
    copyBytes r.copy ++ [r.tag] ++ be32 r.startStamp ++ be32 r.releaseStamp ++ pendingBytes r.pending ++
    [r.flags.toByte, yesNo r.tailTimer.running]

/-- VOICE READ (R102). -/
def State.voiceRead (s : State) (params : List Byte) : Answer :=
  match params with
  | [x] =>
    match indexOf 96 x with
    | none => badValue
    | some v => .done s ((s.voice v).report x)
  | _ => badLength

/-! ### Arbiter commands (chapter 6) -/

/-- The express class a byte names: 0 for none, 1 to 8 for a class (R118). -/
def expressOf (b : Byte) : Option (Option ServiceClass) :=
  if b = 0 then some none else (serviceClassOf b.toNat).map some

/-- The band map that eight bytes name in class-number order (R118). -/
def bandMapOf (bs : List Byte) : Option BandMap :=
  match bs with
  | [b1, b2, b3, b4, b5, b6, b7, b8] =>
    match bandOf b1, bandOf b2, bandOf b3, bandOf b4, bandOf b5, bandOf b6, bandOf b7, bandOf b8 with
    | some x1, some x2, some x3, some x4, some x5, some x6, some x7, some x8 => some ⟨x1, x2, x3, x4, x5, x6, x7, x8⟩
    | _, _, _, _, _, _, _, _ => none
  | _ => none

/-- The express class in a report, 0 for none (R119). -/
def classByte (o : Option ServiceClass) : Byte :=
  match o with
  | some c => byte c.number
  | none => 0

/-- The express class and the eight bands in a report (R118, R119). -/
def Arbiter.settingBytes (a : Arbiter) : List Byte :=
  classByte a.express :: serviceClasses.map fun c => (a.bands.get c).code

/-- ARBITER SET (R118). -/
def State.arbiterSet (s : State) (params : List Byte) : Answer :=
  match params with
  | [] => badLength
  | x :: bands =>
    if bands.length = 8 then
      match expressOf x, bandMapOf bands with
      | some express, some m =>
        let a := { s.arbiter with express := express, bands := m }
        .done (s.setArbiter a) a.settingBytes
      | _, _ => badValue
    else badLength

/-- The transmitter in a report: SENDING or IDLE, and the class in flight (R119, R163). -/
def transmitterBytes (o : Option InFlight) : List Byte :=
  match o with
  | some f => [1, byte f.cls.number]
  | none => [0, 0]

/-- The 27 bytes of the ARBITER READ reply (R119, R163). -/
def State.arbiterReport (s : State) : List Byte :=
  let a := s.arbiter
  a.settingBytes ++ [classByte a.bandPoints.high, classByte a.bandPoints.mid, classByte a.bandPoints.low] ++
    ([ServiceClass.start, .ending, .pitch, .level, .timbre].map fun c => voiceByte (a.voicePoints.get c)) ++
    transmitterBytes a.transmitter ++ serviceClasses.map fun c => byte (s.eligibleCount c)

/-- ARBITER READ (R119). -/
def State.arbiterRead (s : State) (params : List Byte) : Answer :=
  match params with
  | [] => .done s s.arbiterReport
  | _ => badLength

/-! ### Store commands (chapter 7) -/

/-- TABLE ERASE (R128). -/
def State.tableErase (s : State) (params : List Byte) : Answer :=
  match params with
  | [x] =>
    match indexOf 24 x with
    | none => badValue
    | some b =>
      if (s.block b).op.isSome then .refused .blockState [4]
      else if s.bound b then .refused .bound []
      else if (s.block b).locked then .refused .locked []
      else if 1000 ≤ (s.block b).eraseCount then .refused .worn []
      else .started (s.beginStore b .erase) (.erase b)
  | _ => badLength

/-- TABLE WRITE (R129). -/
def State.tableWrite (s : State) (params : List Byte) : Answer :=
  match params with
  | x :: first :: bytes =>
    match indexOf 24 x with
    | none => badValue
    | some b =>
      match (s.block b).judgeWrite (s.bound b) first.toNat bytes with
      | .refuse cause data => .refused cause data
      | .accept images => .started (s.beginStore b .write) (.write b first.toNat images)
  | _ => badLength

/-- Whether a block state is OPEN. -/
def BlockState.isOpen : BlockState → Bool
  | .blank => false
  | .opened => true
  | .valid => false
  | .incomplete => false

/-- Whether a block state is VALID. -/
def BlockState.isValid : BlockState → Bool
  | .blank => false
  | .opened => false
  | .valid => true
  | .incomplete => false

/-- TABLE COMMIT (R130). -/
def State.tableCommit (s : State) (params : List Byte) : Answer :=
  match params with
  | [x, hi, lo] =>
    match indexOf 24 x with
    | none => badValue
    | some b =>
      if (s.block b).notIn BlockState.isOpen then .refused .blockState [(s.block b).stateByte]
      else
        match (s.block b).commitFault (256 * hi.toNat + lo.toNat) with
        | some (cause, data) => .refused cause data
        | none => .started (s.beginStore b .commit) (.commit b)
  | _ => badLength

/-- TABLE VERIFY (R131). -/
def State.tableVerify (s : State) (params : List Byte) : Answer :=
  match params with
  | [x, hi, lo] =>
    match indexOf 24 x with
    | none => badValue
    | some b =>
      if (s.block b).notIn (fun st => st.isOpen || st.isValid) then .refused .blockState [(s.block b).stateByte]
      else
        let sum := (s.block b).computedChecksum
        .done s ([x, yesNo (sum != 256 * hi.toNat + lo.toNat)] ++ be16 sum)
  | _ => badLength

/-- TABLE BLANK CHECK (R132). -/
def State.tableBlankCheck (s : State) (params : List Byte) : Answer :=
  match params with
  | [x] =>
    match indexOf 24 x with
    | none => badValue
    | some b =>
      if (s.block b).notIn (· ≠ .incomplete) then .refused .blockState [(s.block b).stateByte]
      else .done s [x, optByte (firstPosition 0 127 (s.block b).written)]
  | _ => badLength

/-- The mark and image of a position in a TABLE READ reply (R163). -/
def Block.readBytes (b : Block) (position : Nat) : List Byte :=
  match b.image position with
  | some x => 1 :: x
  | none => [0]

/-- The size by which TABLE READ judges the fit of a run in its reply: every position a mark and, but for a BLANK block, a full
image (R164). -/
def Block.readSize (b : Block) (first count : Nat) : Nat :=
  match b.kind with
  | none => 3 + count
  | some k => 3 + ((List.range' first count).map fun p => 1 + k.imageLength p).sum

/-- TABLE READ: the number of positions is judged before the state of the block, the first position, run and fit after it (R133,
R168; log entry 15). -/
def State.tableRead (s : State) (params : List Byte) : Answer :=
  match params with
  | [x, first, count] =>
    match indexOf 24 x with
    | none => badValue
    | some b =>
      if count.toNat < 1 ∨ 8 < count.toNat then badValue
      else if (s.block b).notIn (· ≠ .incomplete) then .refused .blockState [(s.block b).stateByte]
      else if 127 < first.toNat ∨ 128 < first.toNat + count.toNat ∨
          40 < (s.block b).readSize first.toNat count.toNat then badValue
      else
        .done s ([x, first, count] ++ (List.range' first.toNat count.toNat).flatMap (s.block b).readBytes)
  | _ => badLength

/-- TABLE LOCK (R134). -/
def State.tableLock (s : State) (params : List Byte) : Answer :=
  match params with
  | [x] =>
    match indexOf 24 x with
    | none => badValue
    | some b =>
      if (s.block b).op.isSome then .refused .blockState [4]
      else if (s.block b).locked then .refused .locked []
      else if !(s.block b).state.isValid then .refused .blockState [(s.block b).state.code]
      else .started (s.beginStore b .lock) (.lock b)
  | _ => badLength

/-- BLOCK READ (R135). -/
def State.blockRead (s : State) (params : List Byte) : Answer :=
  match params with
  | [x] =>
    match indexOf 24 x with
    | none => badValue
    | some b =>
      let r := s.block b
      .done s ([x, r.state.code, optKindByte r.kind, yesNo r.locked] ++ be16 r.eraseCount ++ [yesNo (s.bound b)])
  | _ => badLength

/-- STORE CLEAR: refused when a block is bound, otherwise it reaches block 0 (R136). -/
def State.storeClear (s : State) (params : List Byte) : Answer :=
  match params with
  | [] =>
    match s.lowestBound with
    | some b => .refused .bound [byte b.val]
    | none => let (t, work) := s.clearReach 0 0 0; .started t work
  | _ => badLength

/-! ### NOTICE MASK SET and RESET (chapters 10 and 11) -/

/-- NOTICE MASK SET (R171). -/
def State.noticeMaskSet (s : State) (params : List Byte) : Answer :=
  match params with
  | [x] => if x.getLsbD 7 then badValue else .done (s.setMgmt { s.mgmt with mask := x }) [x]
  | _ => badLength

/-- The kind of a RESET that a byte names (R163). -/
def resetKindOf (b : Byte) : Option ResetKind :=
  if b = 1 then some .sectionOnly else if b = 2 then some .full else none

/-- RESET with a kind byte and a quiesce limit (R174). -/
def State.resetWith (s : State) (kind : Byte) (limit : Nat) : Answer :=
  match resetKindOf kind with
  | none => badValue
  | some k => if limit = 0 then badValue else .started (s.quiesceBegin k limit) .reset

/-- RESET; an omitted limit is 63 (R174). -/
def State.resetCommand (s : State) (params : List Byte) : Answer :=
  match params with
  | [kind] => s.resetWith kind 63
  | [kind, limit] => s.resetWith kind limit.toNat
  | _ => badLength

/-! ### Judging a command (R163, R168) -/

/-- A started command judged by its code, its parameter length, its values and its owner's tests, and carried out (R168). -/
def State.carryOut (s : State) (c : Cmd) : Answer :=
  match c.code.toNat with
  | 0x10 => s.performerSet c.params
  | 0x11 => s.performerEnable c.params
  | 0x12 => s.performerDisable c.params
  | 0x13 => s.performerRead c.params
  | 0x20 => s.bindCommand c.params
  | 0x30 => s.engineSet c.params
  | 0x31 => s.engineRead c.params
  | 0x32 => s.voiceRead c.params
  | 0x40 => s.arbiterSet c.params
  | 0x41 => s.arbiterRead c.params
  | 0x50 => s.tableErase c.params
  | 0x51 => s.tableWrite c.params
  | 0x52 => s.tableCommit c.params
  | 0x53 => s.tableVerify c.params
  | 0x54 => s.tableBlankCheck c.params
  | 0x55 => s.tableRead c.params
  | 0x56 => s.tableLock c.params
  | 0x57 => s.blockRead c.params
  | 0x58 => s.storeClear c.params
  | 0x60 => s.noticeMaskSet c.params
  | 0x70 => s.resetCommand c.params
  | _ => .refused .unknownCommand []

end Sys2Proof.Machine
end

