-- ==== Sys2Proof/Machine/Management.lean ====
section
/-! DEFINITION. The Management Unit (chapter 10): the arrival and the start of commands, and the completions of the commands
that take time. -/

namespace Sys2Proof.Machine

/-! ### Starting commands (R167) -/

/-- The head command's reply entry is held: it joins the end of the reply queue without a result (R167, step 2). -/
def State.hold (s : State) (c : Cmd) (rest : List Cmd) : State :=
  s.setMgmt { s.mgmt with waiting := rest, replies := s.mgmt.replies ++ [⟨c.tag, c.code, none⟩] }

/-- A command that has been accepted and takes time is in progress. -/
def State.setInProgress (s : State) (c : Cmd) (work : Work) : State :=
  s.setMgmt { s.mgmt with inProgress := some ⟨c, work⟩ }

/-- The start of a command whose entry is held: it is judged and carried out, and answered at once unless it takes time; a RESET
with no engine to wait for ends its quiesce in the same event (R167, R168, R175). -/
def State.startHeld (s : State) (c : Cmd) : State :=
  match s.carryOut c with
  | .done t data => t.buildReply none data
  | .refused cause data => s.buildReply (some cause) data
  | .started t .reset => (t.setInProgress c .reset).quiesceTest
  | .started t (.erase b) => t.setInProgress c (.erase b)
  | .started t (.write b first images) => t.setInProgress c (.write b first images)
  | .started t (.commit b) => t.setInProgress c (.commit b)
  | .started t (.lock b) => t.setInProgress c (.lock b)
  | .started t (.storeClear b n worn) => t.setInProgress c (.storeClear b n worn)
  | .started t (.passOver b n worn) => t.setInProgress c (.passOver b n worn)

/-- Start waiting commands, at most so many: the head starts while no command is in progress and a reply entry is free
(R167). -/
def State.startUpTo : Nat → State → State
  | 0, s => s
  | n + 1, s =>
    match s.mgmt.inProgress, s.mgmt.waiting with
    | none, c :: rest =>
      if s.mgmt.replies.length < 2 then State.startUpTo n ((s.hold c rest).startHeld c) else s
    | none, [] => s
    | some _, _ => s

/-- The test for the start of the head waiting command, and of those behind it (R167). Each start takes one command from the
list, so its length bounds how many start. -/
def State.startWaiting (s : State) : State := s.startUpTo s.mgmt.waiting.length

/-- The arrival of a command: it joins the waiting list and the start is tested, or it is discarded with the overrun flag set
when 2 commands wait (R166). -/
def State.arrive (s : State) (c : Cmd) : State :=
  if s.mgmt.waiting.length < 2 then
    (s.setMgmt { s.mgmt with waiting := s.mgmt.waiting ++ [c] }).startWaiting
  else s.setMgmt { s.mgmt with overrun := true }

/-! ### Completions (R127, R167) -/

/-- The completion of a store command: the effects on its block are made, the reply is built, the waiting list is tested
(R127, R167). -/
def State.complete (s : State) (b : BlockId) (f : Block → Block) (data : Block → List Byte) : State :=
  let s := (s.updBlock b f).storeDone
  (s.buildReply none (data (s.block b))).startWaiting

/-- The reply data of TABLE ERASE: block and new erase count (R128, R163). -/
def eraseData (b : BlockId) (r : Block) : List Byte := byte b.val :: be16 r.eraseCount

/-- The reply data of TABLE WRITE: block, first position, number of positions (R129, R163). -/
def writeData (b : BlockId) (first : Nat) (images : List Image) (_ : Block) : List Byte :=
  [byte b.val, byte first, byte images.length]

/-- The reply data of TABLE COMMIT: block, kind, entry count, checksum (R130, R163). -/
def commitData (b : BlockId) (r : Block) : List Byte :=
  [byte b.val, optKindByte r.kind, byte r.lastPosition] ++ be16 r.computedChecksum

/-- The reply data of TABLE LOCK: block (R134, R163). -/
def lockData (b : BlockId) (_ : Block) : List Byte := [byte b.val]

/-- The erasure in flight completes (R128). -/
def State.erasureDone (s : State) : State :=
  match s.mgmt.inProgress with
  | some ⟨_, .erase b⟩ => s.complete b Block.erased (eraseData b)
  | _ => s

/-- The write in flight completes (R129). -/
def State.writeDone (s : State) : State :=
  match s.mgmt.inProgress with
  | some ⟨_, .write b first images⟩ => s.complete b (·.afterWrite first images) (writeData b first images)
  | _ => s

/-- The commit in flight completes (R130). -/
def State.commitDone (s : State) : State :=
  match s.mgmt.inProgress with
  | some ⟨_, .commit b⟩ => s.complete b Block.committed (commitData b)
  | _ => s

/-- The lock in flight completes (R134). -/
def State.lockDone (s : State) : State :=
  match s.mgmt.inProgress with
  | some ⟨_, .lock b⟩ => s.complete b Block.lockedNow (lockData b)
  | _ => s

/-- STORE CLEAR has dealt with a block: it reaches the next one, or builds its reply after block 23 (R136). -/
def State.clearNext (s : State) (c : Cmd) (b : BlockId) (erased : Nat) (worn : BlockSet) : State :=
  if h : b.val + 1 < 24 then
    let (t, work) := s.clearReach ⟨b.val + 1, h⟩ erased worn
    t.setInProgress c work
  else (s.buildReply none (clearData erased worn)).startWaiting

/-- STORE CLEAR has dealt with the block it stands at: its erasure completes, or it is worn and has been passed over (R136,
R139). -/
def State.clearBlockDone (s : State) : State :=
  match s.mgmt.inProgress with
  | some ⟨c, .storeClear b n worn⟩ => ((s.updBlock b Block.erased).storeDone).clearNext c b (n + 1) worn
  | some ⟨c, .passOver b n worn⟩ => s.storeDone.clearNext c b n (BlockSet.insert worn b)
  | _ => s

/-! ### Events of a quiesce that may start a waiting command (R176, R178 step 4) -/

/-- The test whether the quiesce has ended CLEAN, and then of the waiting list: a quiesce that goes on changes nothing here
(R176, R178). -/
def State.afterQuiesceEvent (s : State) : State := if s.quiesce.complete then s.quiesceTest.startWaiting else s

end Sys2Proof.Machine
end

