-- ==== Sys2Proof/Machine/Links.lean ====
section
/-! DEFINITION. The link receivers (chapter 9): collecting bytes, judging a frame that an idle line has ended, and passing it to
its owner. -/

namespace Sys2Proof.Machine

/-! ### Judging a Gesture Link frame (R156) -/

/-- A frame of the Gesture Link that passed its tests. -/
inductive GestureFrame where
  | gesture (slot : Slot) (content : Gesture)
  | command (c : Cmd)
deriving DecidableEq, Repr

/-- The kind of a frame: the high four bits of its first byte (R162). -/
def kindOf (first : Byte) : Nat := first.toNat / 16

/-- The slot, engine or address of a frame: the low four bits of its first byte (R162). -/
def addressOf (first : Byte) : Nat := first.toNat % 16

/-- The content of a GESTURE frame, from its ten bytes (R162). -/
def gestureOf (frame : List Byte) : Gesture where
  keys := keysAt frame 1
  octave := s8At frame 4
  breath := u16At frame 5
  bite := u8At frame 7
  lip := u8At frame 8

/-- Tests 3 to 5 of R156 on a GESTURE frame: slot 0 to 7, ten bytes, octave and breath in range. -/
def judgeGesture (first : Byte) (frame : List Byte) : Option GestureFrame :=
  if h : addressOf first < 8 then
    if frame.length = 10 ∧ -3 ≤ (gestureOf frame).octave ∧ (gestureOf frame).octave ≤ 3 ∧
        (gestureOf frame).breath ≤ 1023 then
      some (.gesture ⟨addressOf first, h⟩ (gestureOf frame))
    else none
  else none

/-- Tests 3 and 4 of R156 on a COMMAND frame: slot 15, a parameter length of 0 to 40, and 5 bytes more than it. -/
def judgeCommand (first : Byte) (frame : List Byte) : Option GestureFrame :=
  if addressOf first = 15 ∧ 5 ≤ frame.length ∧ u8At frame 3 ≤ 40 ∧ frame.length = 5 + u8At frame 3 then
    some (.command ⟨byteAt frame 1, byteAt frame 2, (frame.drop 4).take (u8At frame 3)⟩)
  else none

/-- The Gesture Receiver's judgment of a frame: none is discarded without trace (R156). -/
def judgeGestureLink (frame : List Byte) : Option GestureFrame :=
  match frame with
  | [] => none
  | first :: _ =>
    if !checkHolds frame then none
    else if kindOf first = 1 then judgeGesture first frame
    else if kindOf first = 2 then judgeCommand first frame
    else none

/-- The routing of a frame that passed (R157): a GESTURE is discarded while a quiesce is in progress. -/
def State.routeGestureLink (s : State) (f : GestureFrame) : State :=
  match f with
  | .gesture i g =>
    match s.quiesce.phase with
    | .idle => s.gestureAt i g
    | .quiescing => s
  | .command c => s.arrive c

/-! ### Judging a frame of the inbound Voice Link (R158) -/

/-- A frame of the inbound Voice Link that passed its tests. -/
inductive EngineFrame where
  | hello (engine : EngineId) (count : Nat)
  | tailDone (voice : VoiceId) (tag : Byte)
  | hold (engine : EngineId)
  | go (engine : EngineId)
  | quiesceAck (engine : EngineId)
deriving DecidableEq, Repr

/-- Tests 2, 4 and 5 of R158 on a frame of an engine whose check holds: kind, length, and voice count or number in range. -/
def judgeEngineFrame (e : EngineId) (kind : Nat) (frame : List Byte) : Option EngineFrame :=
  match kind with
  | 1 =>
    if frame.length = 3 ∧ 1 ≤ u8At frame 1 ∧ u8At frame 1 ≤ 24 then some (.hello e (u8At frame 1)) else none
  | 2 =>
    if frame.length = 4 then (indexOf 24 (byteAt frame 1)).map fun n => .tailDone (voiceAt e n) (byteAt frame 2)
    else none
  | 3 => if frame.length = 2 then some (.hold e) else none
  | 4 => if frame.length = 2 then some (.go e) else none
  | 5 => if frame.length = 2 then some (.quiesceAck e) else none
  | _ => none

/-- The part's judgment of a frame of the inbound Voice Link (R158). -/
def judgeVoiceLink (frame : List Byte) : Option EngineFrame :=
  match frame with
  | [] => none
  | first :: _ =>
    if !checkHolds frame then none
    else if h : addressOf first < 4 then judgeEngineFrame ⟨addressOf first, h⟩ (kindOf first) frame
    else none

/-- A HELLO at the Voice Pool and at the Restart Controller (R97, R176). -/
def State.helloEvent (s : State) (e : EngineId) (count : Nat) : State :=
  let s := s.hello e count
  (s.setQuiesce (s.quiesce.rejoined e)).afterQuiesceEvent

/-- A QUIESCE ACK at the Restart Controller (R176). -/
def State.ackEvent (s : State) (e : EngineId) : State :=
  (s.setQuiesce (s.quiesce.answered e)).afterQuiesceEvent

/-- A frame that passed goes to its owner (R158). -/
def State.routeVoiceLink (s : State) (f : EngineFrame) : State :=
  match f with
  | .hello e n => s.helloEvent e n
  | .tailDone v tag => s.tailDone v tag
  | .hold e => s.setHeld e true
  | .go e => s.setHeld e false
  | .quiesceAck e => s.ackEvent e

/-! ### The receivers (R154) -/

/-- The receiver of a link. -/
def State.receiver (s : State) : Link → Receiver
  | .gesture => s.gestureRx
  | .voice => s.voiceRx

/-- Write the receiver of a link. -/
def State.setReceiver (s : State) (l : Link) (r : Receiver) : State :=
  match l with
  | .gesture => { s with gestureRx := r }
  | .voice => { s with voiceRx := r }

/-- A receiver takes a byte: it joins the frame being collected; the 48th ends the frame, which is discarded for bad length, and
no byte is taken until the line is idle (R154). -/
def Receiver.takeByte (r : Receiver) (b : Byte) : Receiver :=
  if r.awaitingIdle then r
  else if r.collected.length + 1 < 48 then { r with collected := r.collected ++ [b] }
  else ⟨[], true⟩

/-- A receiver takes bytes that no idle line of two byte times parts. -/
def Receiver.takeBytes (r : Receiver) (bs : List Byte) : Receiver := bs.foldl Receiver.takeByte r

/-- A receiver after an idle line of two byte times: it collects nothing and may take bytes (R154). -/
def Receiver.idle : Receiver := ⟨[], false⟩

/-- A frame that has ended is judged and routed, or discarded (R156 to R158). -/
def State.judgeFrame (s : State) (l : Link) (frame : List Byte) : State :=
  match l with
  | .gesture =>
    match judgeGestureLink frame with
    | some f => s.routeGestureLink f
    | none => s
  | .voice =>
    match judgeVoiceLink frame with
    | some f => s.routeVoiceLink f
    | none => s

/-- An idle line of two byte times on a link: a frame being collected ends and is judged (R154). -/
def State.lineIdle (s : State) (l : Link) : State :=
  (s.setReceiver l .idle).judgeFrame l (s.receiver l).collected

/-- Bytes on a link that no idle line parts (R154). -/
def State.bytesOn (s : State) (l : Link) (bs : List Byte) : State :=
  s.setReceiver l ((s.receiver l).takeBytes bs)

/-- A frame on a link, from the idle line before it to the idle line that ends it (R154; log entry 10). -/
def State.receive (s : State) (l : Link) (frame : List Byte) : State :=
  ((s.lineIdle l).bytesOn l frame).lineIdle l

end Sys2Proof.Machine
end

