-- ==== Sys2Proof/Machine/Events.lean ====
section
/-! DEFINITION. The meaning of every command of the table: one definition each, over the shared operations. Every meaning
answers a next state. -/

namespace Sys2Proof.Machine

/-- The outcome of a step of the part. -/
abbrev Result := Host.Outcome State Fault Refusal

/-! ### Events at the performer contexts -/

/-- GESTURE: a frame of kind 1 ends on the Gesture Link (R7, R156, R157). -/
def execGesture (slot : BitVec 4) (rest : List Byte) (s : State) : Result :=
  .next (s.whenRunning (s.receive .gesture (kindByte 1 slot.toNat :: rest)))

/-- SETTLE_EXPIRY (R36). -/
def execSettleExpiry (slot : Slot) (s : State) : Result := .next (s.whenRunning (s.settleExpiry slot))

/-- ATTACK_EXPIRY (R51). -/
def execAttackExpiry (slot : Slot) (s : State) : Result := .next (s.whenRunning (s.attackExpiry slot))

/-- GUARD_EXPIRY (R52). -/
def execGuardExpiry (slot : Slot) (s : State) : Result := .next (s.whenRunning (s.guardExpiry slot))

/-- SILENCE_EXPIRY (R10). -/
def execSilenceExpiry (slot : Slot) (s : State) : Result := .next (s.whenRunning (s.silenceExpiry slot))

/-- PHRASE_EXPIRY (R150). -/
def execPhraseExpiry (slot : Slot) (s : State) : Result := .next (s.whenRunning (s.phraseExpiry slot))

/-- GLIDE_STEP_EXPIRY (R72). -/
def execGlideStepExpiry (slot : Slot) (s : State) : Result := .next (s.whenRunning (s.glideStep slot))

/-! ### Events at the Voice Pool and the Restart Controller -/

/-- TAIL_TIMER_EXPIRY (R95). -/
def execTailTimerExpiry (voice : VoiceId) (s : State) : Result := .next (s.whenRunning (s.tailExpiry voice))

/-- HELLO: a frame of kind 1 ends on the inbound Voice Link (R97, R158, R176). -/
def execHello (engine : BitVec 4) (rest : List Byte) (s : State) : Result :=
  .next (s.whenRunning (s.receive .voice (kindByte 1 engine.toNat :: rest)))

/-- TAIL_DONE: a frame of kind 2 ends on the inbound Voice Link (R94, R158). -/
def execTailDone (engine : BitVec 4) (rest : List Byte) (s : State) : Result :=
  .next (s.whenRunning (s.receive .voice (kindByte 2 engine.toNat :: rest)))

/-- HOLD: a frame of kind 3 ends on the inbound Voice Link (R98, R158). -/
def execHold (engine : BitVec 4) (rest : List Byte) (s : State) : Result :=
  .next (s.whenRunning (s.receive .voice (kindByte 3 engine.toNat :: rest)))

/-- GO: a frame of kind 4 ends on the inbound Voice Link (R98, R158). -/
def execGo (engine : BitVec 4) (rest : List Byte) (s : State) : Result :=
  .next (s.whenRunning (s.receive .voice (kindByte 4 engine.toNat :: rest)))

/-- QUIESCE_ACK: a frame of kind 5 ends on the inbound Voice Link (R158, R176). -/
def execQuiesceAck (engine : BitVec 4) (rest : List Byte) (s : State) : Result :=
  .next (s.whenRunning (s.receive .voice (kindByte 5 engine.toNat :: rest)))

/-! ### Events at the arbiter -/

/-- A selection: the chosen item is taken; a REPLY taken frees its entry, so a waiting command may start (R167), and a QUIESCE
taken is an event of the quiesce (R176). With nothing to choose no selection takes place (R105). -/
def State.selection (s : State) : State :=
  match s.selectable with
  | none => s
  | some ch =>
    match ch.item with
    | .reply => (s.take ch).startWaiting
    | .engine _ .quiesce => (s.take ch).afterQuiesceEvent
    | .engine _ .hush => s.take ch
    | .voice _ => s.take ch
    | .broadcast => s.take ch
    | .notice => s.take ch

/-- SELECTION (R105). -/
def execSelection (s : State) : Result := .next (s.whenRunning s.selection)

/-- TRANSMIT_COMPLETION (R104; log entry 24). -/
def execTransmitCompletion (s : State) : Result := .next (s.whenRunning s.transmitDone)

/-! ### Commands of the console -/

/-- COMMAND: a frame of kind 2 ends on the Gesture Link (R156, R157, R166). -/
def execCommand (slot : BitVec 4) (rest : List Byte) (s : State) : Result :=
  .next (s.whenRunning (s.receive .gesture (kindByte 2 slot.toNat :: rest)))

/-- COMMAND_START: the head waiting command starts if it may (R167). -/
def execCommandStart (s : State) : Result := .next (s.whenRunning s.startWaiting)

/-- A console command arrives in a COMMAND frame that passed the Gesture Receiver; parameters of more than 40 bytes fit no such
frame (R156, test 4; R166; log entry 9). -/
def State.consoleCommand (s : State) (code : Byte) (tag : Byte) (params : List Byte) : State :=
  s.whenRunning (if params.length ≤ 40 then s.arrive ⟨tag, code, params⟩ else s)

/-- PERFORMER_SET (R18), code 10h. -/
def execPerformerSet (tag : Byte) (params : List Byte) (s : State) : Result := .next (s.consoleCommand 0x10 tag params)

/-- PERFORMER_ENABLE (R14), code 11h. -/
def execPerformerEnable (tag : Byte) (params : List Byte) (s : State) : Result :=
  .next (s.consoleCommand 0x11 tag params)

/-- PERFORMER_DISABLE (R13), code 12h. -/
def execPerformerDisable (tag : Byte) (params : List Byte) (s : State) : Result :=
  .next (s.consoleCommand 0x12 tag params)

/-- PERFORMER_READ (R19), code 13h. -/
def execPerformerRead (tag : Byte) (params : List Byte) (s : State) : Result :=
  .next (s.consoleCommand 0x13 tag params)

/-- BIND (R143), code 20h. -/
def execBind (tag : Byte) (params : List Byte) (s : State) : Result := .next (s.consoleCommand 0x20 tag params)

/-- ENGINE_SET (R100), code 30h. -/
def execEngineSet (tag : Byte) (params : List Byte) (s : State) : Result := .next (s.consoleCommand 0x30 tag params)

/-- ENGINE_READ (R101), code 31h. -/
def execEngineRead (tag : Byte) (params : List Byte) (s : State) : Result := .next (s.consoleCommand 0x31 tag params)

/-- VOICE_READ (R102), code 32h. -/
def execVoiceRead (tag : Byte) (params : List Byte) (s : State) : Result := .next (s.consoleCommand 0x32 tag params)

/-- ARBITER_SET (R118), code 40h. -/
def execArbiterSet (tag : Byte) (params : List Byte) (s : State) : Result := .next (s.consoleCommand 0x40 tag params)

/-- ARBITER_READ (R119), code 41h. -/
def execArbiterRead (tag : Byte) (params : List Byte) (s : State) : Result := .next (s.consoleCommand 0x41 tag params)

/-- TABLE_ERASE (R128), code 50h. -/
def execTableErase (tag : Byte) (params : List Byte) (s : State) : Result := .next (s.consoleCommand 0x50 tag params)

/-- TABLE_WRITE (R129), code 51h. -/
def execTableWrite (tag : Byte) (params : List Byte) (s : State) : Result := .next (s.consoleCommand 0x51 tag params)

/-- TABLE_COMMIT (R130), code 52h. -/
def execTableCommit (tag : Byte) (params : List Byte) (s : State) : Result := .next (s.consoleCommand 0x52 tag params)

/-- TABLE_VERIFY (R131), code 53h. -/
def execTableVerify (tag : Byte) (params : List Byte) (s : State) : Result := .next (s.consoleCommand 0x53 tag params)

/-- TABLE_BLANK_CHECK (R132), code 54h. -/
def execTableBlankCheck (tag : Byte) (params : List Byte) (s : State) : Result :=
  .next (s.consoleCommand 0x54 tag params)

/-- TABLE_READ (R133), code 55h. -/
def execTableRead (tag : Byte) (params : List Byte) (s : State) : Result := .next (s.consoleCommand 0x55 tag params)

/-- TABLE_LOCK (R134), code 56h. -/
def execTableLock (tag : Byte) (params : List Byte) (s : State) : Result := .next (s.consoleCommand 0x56 tag params)

/-- BLOCK_READ (R135), code 57h. -/
def execBlockRead (tag : Byte) (params : List Byte) (s : State) : Result := .next (s.consoleCommand 0x57 tag params)

/-- STORE_CLEAR (R136), code 58h. -/
def execStoreClear (tag : Byte) (params : List Byte) (s : State) : Result := .next (s.consoleCommand 0x58 tag params)

/-- NOTICE_MASK_SET (R171), code 60h. -/
def execNoticeMaskSet (tag : Byte) (params : List Byte) (s : State) : Result :=
  .next (s.consoleCommand 0x60 tag params)

/-- RESET (R174), code 70h. -/
def execReset (tag : Byte) (params : List Byte) (s : State) : Result := .next (s.consoleCommand 0x70 tag params)

/-! ### Completions of store operations -/

/-- ERASURE_COMPLETION (R128). -/
def execErasureCompletion (s : State) : Result := .next (s.whenRunning s.erasureDone)

/-- WRITE_COMPLETION (R129). -/
def execWriteCompletion (s : State) : Result := .next (s.whenRunning s.writeDone)

/-- COMMIT_COMPLETION (R130). -/
def execCommitCompletion (s : State) : Result := .next (s.whenRunning s.commitDone)

/-- LOCK_COMPLETION (R134). -/
def execLockCompletion (s : State) : Result := .next (s.whenRunning s.lockDone)

/-- STORE_CLEAR_BLOCK_COMPLETION (R136, R139; log entry 25). -/
def execStoreClearBlockCompletion (s : State) : Result := .next (s.whenRunning s.clearBlockDone)

/-! ### Reset, power and the receivers' cut -/

/-- LIMIT_EXPIRY: the quiesce limit timer runs out; a stopped timer has no expiry (R177). -/
def State.limitExpiry (s : State) : State :=
  if s.quiesce.limit.running then s.limitExpired.startWaiting else s

/-- LIMIT_EXPIRY (R177). -/
def execLimitExpiry (s : State) : Result := .next (s.whenRunning s.limitExpiry)

/-- A hard reset by its cause: a line assertion shorter than 10 µs has no effect, and one on a part without power has none
(R179; log entry 6). -/
def State.hardReset (s : State) (cause : ResetCause) : State :=
  match cause with
  | .powerOn => s.cleared .inReset
  | .line d =>
    if d < 10 then s
    else
      match s.power with
      | .running => s.cleared .inReset
      | .inReset => s.cleared .inReset
      | .off => s

/-- HARD_RESET (R179). -/
def execHardReset (cause : ResetCause) (s : State) : Result := .next (s.hardReset cause)

/-- POWER_LOSS: volatile state is lost, the marks of the store stay (R139; log entry 7). -/
def execPowerLoss (s : State) : Result := .next (s.cleared .off)

/-- START_UP: the line is released after a hard reset, or the supply is established; a part that runs has nothing to start
(R179; log entry 6). -/
def State.startUp (s : State) : State :=
  match s.power with
  | .running => s
  | .inReset => s.startedUp
  | .off => (s.cleared .inReset).startedUp

/-- START_UP (R179). -/
def execStartUp (s : State) : Result := .next s.startUp

/-- RECEIVER_FRAME_CUT_AT_48_BYTES: a link brings bytes that no idle line parts; the 48th cuts the frame (R154). -/
def execReceiverFrameCut (link : Link) (bytes : List Byte) (s : State) : Result :=
  .next (s.whenRunning (s.bytesOn link bytes))

end Sys2Proof.Machine
end

