-- ==== Sys2Proof/Machine/Dispatch.lean ====
section
/-! DEFINITION. What each command does to everything but the queue: one arm for each row of the table. -/

namespace Sys2Proof.Machine

/-- The meaning of a command. -/
def exec (i : Instr) (s : State) : Host.Outcome State Fault Refusal :=
  match i with
  | .gesture slot rest => Sys2Proof.Machine.execGesture slot rest s
  | .settleExpiry slot => Sys2Proof.Machine.execSettleExpiry slot s
  | .attackExpiry slot => Sys2Proof.Machine.execAttackExpiry slot s
  | .guardExpiry slot => Sys2Proof.Machine.execGuardExpiry slot s
  | .silenceExpiry slot => Sys2Proof.Machine.execSilenceExpiry slot s
  | .phraseExpiry slot => Sys2Proof.Machine.execPhraseExpiry slot s
  | .glideStepExpiry slot => Sys2Proof.Machine.execGlideStepExpiry slot s
  | .tailTimerExpiry voice => Sys2Proof.Machine.execTailTimerExpiry voice s
  | .hello engine rest => Sys2Proof.Machine.execHello engine rest s
  | .tailDone engine rest => Sys2Proof.Machine.execTailDone engine rest s
  | .hold engine rest => Sys2Proof.Machine.execHold engine rest s
  | .go engine rest => Sys2Proof.Machine.execGo engine rest s
  | .quiesceAck engine rest => Sys2Proof.Machine.execQuiesceAck engine rest s
  | .selection => Sys2Proof.Machine.execSelection s
  | .transmitCompletion => Sys2Proof.Machine.execTransmitCompletion s
  | .command slot rest => Sys2Proof.Machine.execCommand slot rest s
  | .commandStart => Sys2Proof.Machine.execCommandStart s
  | .performerSet tag params => Sys2Proof.Machine.execPerformerSet tag params s
  | .performerEnable tag params => Sys2Proof.Machine.execPerformerEnable tag params s
  | .performerDisable tag params => Sys2Proof.Machine.execPerformerDisable tag params s
  | .performerRead tag params => Sys2Proof.Machine.execPerformerRead tag params s
  | .bind tag params => Sys2Proof.Machine.execBind tag params s
  | .engineSet tag params => Sys2Proof.Machine.execEngineSet tag params s
  | .engineRead tag params => Sys2Proof.Machine.execEngineRead tag params s
  | .voiceRead tag params => Sys2Proof.Machine.execVoiceRead tag params s
  | .arbiterSet tag params => Sys2Proof.Machine.execArbiterSet tag params s
  | .arbiterRead tag params => Sys2Proof.Machine.execArbiterRead tag params s
  | .tableErase tag params => Sys2Proof.Machine.execTableErase tag params s
  | .tableWrite tag params => Sys2Proof.Machine.execTableWrite tag params s
  | .tableCommit tag params => Sys2Proof.Machine.execTableCommit tag params s
  | .tableVerify tag params => Sys2Proof.Machine.execTableVerify tag params s
  | .tableBlankCheck tag params => Sys2Proof.Machine.execTableBlankCheck tag params s
  | .tableRead tag params => Sys2Proof.Machine.execTableRead tag params s
  | .tableLock tag params => Sys2Proof.Machine.execTableLock tag params s
  | .blockRead tag params => Sys2Proof.Machine.execBlockRead tag params s
  | .storeClear tag params => Sys2Proof.Machine.execStoreClear tag params s
  | .noticeMaskSet tag params => Sys2Proof.Machine.execNoticeMaskSet tag params s
  | .reset tag params => Sys2Proof.Machine.execReset tag params s
  | .erasureCompletion => Sys2Proof.Machine.execErasureCompletion s
  | .writeCompletion => Sys2Proof.Machine.execWriteCompletion s
  | .commitCompletion => Sys2Proof.Machine.execCommitCompletion s
  | .lockCompletion => Sys2Proof.Machine.execLockCompletion s
  | .storeClearBlockCompletion => Sys2Proof.Machine.execStoreClearBlockCompletion s
  | .limitExpiry => Sys2Proof.Machine.execLimitExpiry s
  | .hardReset cause => Sys2Proof.Machine.execHardReset cause s
  | .powerLoss => Sys2Proof.Machine.execPowerLoss s
  | .startUp => Sys2Proof.Machine.execStartUp s
  | .receiverFrameCut link bytes => Sys2Proof.Machine.execReceiverFrameCut link bytes s

end Sys2Proof.Machine
end

