-- ==== Sys2Proof/Machine/Idle.lean ====
section
/-! DEFINITION. The clock of the part: what happens when no command waits (log entries 1 and 2). An event that is due is taken;
with none due, time goes on. -/

namespace Sys2Proof.Machine

/-! ### What is due -/

/-- The expiries due at a context. -/
def State.dueAt (s : State) (i : Slot) : List Instr :=
  let t := (s.ctx i).timers
  (if t.settle.due then [.settleExpiry i] else []) ++ (if t.attack.due then [.attackExpiry i] else []) ++
    (if t.guard.due then [.guardExpiry i] else []) ++ (if t.silence.due then [.silenceExpiry i] else []) ++
    (if t.phrase.due then [.phraseExpiry i] else []) ++ (if t.glideStep.due then [.glideStepExpiry i] else [])

/-- The completion of the command in progress, when its store operation is over (R127, R136). -/
def State.dueStore (s : State) : List Instr :=
  if s.storeTimer.due then
    match s.mgmt.inProgress with
    | some ⟨_, .erase _⟩ => [.erasureCompletion]
    | some ⟨_, .write _ _ _⟩ => [.writeCompletion]
    | some ⟨_, .commit _⟩ => [.commitCompletion]
    | some ⟨_, .lock _⟩ => [.lockCompletion]
    | some ⟨_, .storeClear _ _ _⟩ => [.storeClearBlockCompletion]
    | some ⟨_, .passOver _ _ _⟩ => [.storeClearBlockCompletion]
    | some ⟨_, .reset⟩ => []
    | none => []
  else []

/-- The transmit completion when the sending time is over, or a selection when the transmitter is IDLE and an item is eligible
(R104, R105). -/
def State.dueTransmit (s : State) : List Instr :=
  match s.arbiter.transmitter with
  | some f => if f.left = 0 then [.transmitCompletion] else []
  | none => if s.choice.isSome then [.selection] else []

/-- Every event due now. -/
def State.dueEvents (s : State) : List Instr :=
  s.dueTransmit ++ s.dueStore ++ (if s.quiesce.limit.due then [.limitExpiry] else []) ++
    slots.flatMap s.dueAt ++
    (voiceIds.filter fun v => (s.voice v).tailTimer.due).map .tailTimerExpiry

/-! ### Time going on -/

/-- The timers of a context one tu later. -/
def Timers.tick (t : Timers) : Timers :=
  ⟨t.settle.tick, t.attack.tick, t.guard.tick, t.silence.tick, t.phrase.tick, t.glideStep.tick⟩

/-- The next tu begins: the timebase counts it and every running timer has one tu less (R3, R4; log entry 4). -/
def State.nextTu (s : State) : State :=
  let s := s.mapContexts fun _ c => { c with timers := c.timers.tick }
  let s := s.mapVoices fun _ r => { r with tailTimer := r.tailTimer.tick }
  let s := s.setQuiesce { s.quiesce with limit := s.quiesce.limit.tick }
  { s with storeTimer := s.storeTimer.tick, timebase := s.timebase + 1, phase := 0 }

/-- The byte times of a tu: 250 µs of 5 µs each (00_scope.md section 5.2, R160). -/
def byteTimesPerTu : Nat := 50

/-- How many byte times pass before something of the clock can be due: to the end of the sending time or of the tu. -/
def State.nextInterval (s : State) : Nat :=
  match s.arbiter.transmitter with
  | some f => min f.left (byteTimesPerTu - s.phase)
  | none => byteTimesPerTu - s.phase

/-- A frame in flight some byte times later. -/
def Arbiter.later (a : Arbiter) (n : Nat) : Arbiter :=
  { a with transmitter := a.transmitter.map fun f => { f with left := f.left - n } }

/-- Time goes on by the next interval. -/
def State.advance (s : State) : State :=
  let n := s.nextInterval
  let s' := s.setArbiter (s.arbiter.later n)
  if byteTimesPerTu ≤ s.phase + n then s'.nextTu else { s' with phase := s.phase + n }

/-- One event of several due, by a free value (log entry 2). -/
def State.dueOne (s : State) (c : Instr) (cs : List Instr) : Result :=
  match (c :: cs)[Config.dueChoice s.freeCount % (cs.length + 1)]? with
  | some c' => exec c' s.countFree
  | none => exec c s.countFree

/-- What the running part does with no command waiting: the event that is due, one of them if several are, otherwise time goes
on (log entry 1). -/
def State.clock (s : State) : Result :=
  match s.dueEvents with
  | [] => .next s.advance
  | [c] => exec c s
  | c :: d :: ds => s.dueOne c (d :: ds)

/-- A step with no command waiting: a part held in reset or without power stands still. -/
def idle (s : State) : Result :=
  match s.power with
  | .running => s.clock
  | .inReset => .next s
  | .off => .next s

end Sys2Proof.Machine
end

