-- ==== Sys2Proof/Safety.lean ====
section
/-! DEFINITION. What the manual promises of every state between two events, as checks that compute; the premises under which a
command has its own effect; and the frames that carry a content. The statements are written in these words. -/

namespace Sys2Proof.Machine

/-! ### Table Memory (R121 to R125, R142) -/

/-- The content of Table Memory. -/
abbrev Memory := Vector Block 24

/-- The canonical form of Table Memory: in every block the written positions stand strictly rising and below 128 (R122). -/
def Memory.wf (m : Memory) : Bool := blockIds.all fun b => cellsWf m[b].cells

/-- Every written position of a block holds an image of the length its kind gives it (R122, R164). -/
def Block.imagesFit (b : Block) : Bool :=
  match b.kind with
  | some k => b.cells.all fun c => c.2.length == k.imageLength c.1
  | none => false

/-- The kind of a block is the one its header names (R123). -/
def Block.kindFromHeader (b : Block) : Bool :=
  match b.header with
  | some h => b.kind.isSome && b.kind == tableKindOf (byteAt h 0)
  | none => false

/-- The tests of a commit that look at the content: a whole table in good form (R122, R125, R130). -/
def Block.wholeTable (b : Block) : Bool :=
  match b.kind, b.header with
  | some k, some h =>
    headerOk k h && (firstPosition 1 (entryCount h) fun p => !b.written p).isNone &&
      (firstPosition (entryCount h + 1) 127 b.written).isNone &&
      (firstPosition 1 (entryCount h) fun p => !b.entryOk k h p).isNone
  | _, _ => false

/-- What a block state says of the content (R121, R122). -/
def Block.contentOk (b : Block) : Bool :=
  match b.state with
  | .blank => b.kind.isNone && b.cells.isEmpty
  | .opened => b.imagesFit && b.kindFromHeader
  | .valid => b.imagesFit && b.kindFromHeader && b.wholeTable
  | .incomplete => b.kind.isNone

/-- A block record within its laws: positions in canonical form, at most 1000 erasures, a locked block VALID, and the content as
the state says (R121, R122). -/
def Block.wf (b : Block) : Bool :=
  cellsWf b.cells && b.eraseCount ≤ 1000 && (!b.locked || b.state == .valid) && b.contentOk

/-- Whether a binding target is a VALID block of a kind; "none" names no block (R142). -/
def State.targetOk (s : State) (k : TableKind) (target : Option BlockId) : Bool :=
  match target with
  | some b => (s.block b).state == .valid && (s.block b).kind == some k
  | none => true

/-- Every block that a context's bindings name is VALID and of the binding's kind (R142). -/
def State.bindingsOk (s : State) (i : Slot) : Bool :=
  tableKinds.all fun k =>
    s.targetOk k ((s.ctx i).bindings.get k).active &&
      match ((s.ctx i).bindings.get k).staged with
      | some st => s.targetOk k st.target
      | none => true

/-- The operation in flight on a block, by the command in progress (R121, R127). -/
def Work.opOn (w : Work) (b : BlockId) : Option StoreOp :=
  match w with
  | .erase x => if x = b then some .erase else none
  | .write x _ _ => if x = b then some .write else none
  | .commit x => if x = b then some .commit else none
  | .lock x => if x = b then some .lock else none
  | .storeClear x _ _ => if x = b then some .erase else none
  | .passOver _ _ _ => none
  | .reset => none

/-- The kind that the images of a write in flight are cut by (R129). -/
def Block.runKind (b : Block) (first : Nat) (images : List Image) : Option TableKind :=
  if first = 0 then images.head?.bind fun h => tableKindOf (byteAt h 0) else b.kind

/-- A run of images of a kind, each of the length its position has (R129, R164). -/
def runFits (k : TableKind) (first : Nat) : List Image → Bool
  | [] => true
  | x :: xs => x.length == k.imageLength first && runFits k (first + 1) xs

/-- What a write in flight keeps until its completion (R129). -/
def Block.writeOk (b : Block) (first : Nat) (images : List Image) : Bool :=
  !b.locked && !images.isEmpty && first + images.length ≤ 128 &&
    (match b.state with
      | .blank => first == 0
      | .opened => first != 0
      | .valid => false
      | .incomplete => false) &&
    match b.runKind first images with
    | some k => runFits k first images
    | none => false

/-- What the command in progress keeps until its completion (R128 to R130, R134, R136, R137). -/
def State.workOk (s : State) (w : Work) : Bool :=
  match w with
  | .erase b => !s.bound b && !(s.block b).locked
  | .write b first images => !s.bound b && (s.block b).writeOk first images
  | .commit b => (s.block b).state == .opened && (s.block b).wholeTable
  | .lock b => (s.block b).state == .valid && !(s.block b).locked
  | .storeClear b _ _ => s.lowestBound.isNone && !(s.block b).locked
  | .passOver b _ _ => s.lowestBound.isNone && !(s.block b).locked && 1000 ≤ (s.block b).eraseCount
  | .reset => true

/-- The operations in flight are those of the command in progress while the part runs; a part that does not run has no command
in progress and no binding (R20, R127, R139, R172). -/
def State.flightOk (s : State) : Bool :=
  match s.power with
  | .running =>
    match s.mgmt.inProgress with
    | some p => s.workOk p.work && blockIds.all fun b => (s.block b).op == p.work.opOn b
    | none => blockIds.all fun b => (s.block b).op == none
  | .inReset => s.mgmt.inProgress.isNone && slots.all fun i => (s.ctx i).bindings == .absent
  | .off => s.mgmt.inProgress.isNone && slots.all fun i => (s.ctx i).bindings == .absent

/-- Table Memory, the bindings and the operations in flight within their laws. -/
def State.storeWf (s : State) : Bool :=
  (blockIds.all fun b => (s.block b).wf) && slots.all s.bindingsOk && s.flightOk

/-! ### Voice Pool (R80, R99) -/

/-- A voice record that nobody owns: no owner, layer, layer copy or flag. -/
def Voice.unowned (r : Voice) : Bool := r.owner.isNone && r.layer.isNone && r.copy.isNone && r.flags == .clear

/-- The table of the voice states (R80). -/
def Voice.wf (r : Voice) : Bool :=
  match r.state with
  | .disabled => r.unowned && r.pending.isNone && r.tailTimer.isNone
  | .free => r.unowned && r.pending.isNone && r.tailTimer.isNone
  | .sounding =>
    r.owner.isSome && r.layer.isSome && r.copy.isSome && r.pending != some .ending && r.tailTimer.isNone
  | .releasing =>
    r.unowned && (r.pending.isNone || r.pending == some .ending) && r.pending.isNone == r.tailTimer.isSome

/-- An engine record within its ranges: a voice count and a hold only while it is present (R98, R99). -/
def Engine.wf (e : Engine) : Bool :=
  within 1 255 e.tailLimit &&
    match e.voiceCount with
    | some n => e.present && within 1 24 n
    | none => !e.present && !e.held

/-- The Voice Pool within its laws: the table of the voice states, and a record DISABLED exactly when its voice does not exist at
a present engine (R80). -/
def State.poolWf (s : State) : Bool :=
  (voiceIds.all fun v => (s.voice v).wf && ((s.voice v).state == .disabled) == !s.voiceExists v) &&
    engineIds.all fun e => (s.engine e).wf

/-! ### Performer Contexts (R3, R6, R16) -/

/-- The settings within their ranges (R16). -/
def Settings.wf (x : Settings) : Bool :=
  within 1 4 x.precedence && withinInt (-24) 24 x.transpose && within 0 255 x.settleTime && within 0 255 x.attackWindow &&
    within 0 255 x.guardTime && within 1 255 x.silenceLimit && within 1 255 x.phraseGap

/-- The glide counter within its ranges, its direction toward its target (R3, R71). -/
def GlideCounter.wf (g : GlideCounter) : Bool :=
  g.current ≤ 12700 && g.target ≤ 12700 && within 1 12700 g.step && (!(g.current < g.target) || g.direction == .up) &&
    (!(g.target < g.current) || g.direction == .down)

/-- No staged AT REST binding (R8, R150). -/
def Bindings.noneAtRest (b : Bindings) : Bool :=
  tableKinds.all fun k =>
    match (b.get k).staged with
    | some st => st.timing != .atRest
    | none => true

/-- What a context without a note holds of it: no note record, no candidate, no settle or glide step timer. -/
def Context.noNote (c : Context) : Bool :=
  c.note.isNone && !c.candidate && c.timers.settle.isNone && c.timers.glideStep.isNone

/-- What a context with a note holds: no onset, its pitch committed, the glide step timer running exactly while the glide is on
its way, only the timers of a note running, and all three kinds bound (R6, R33, R71, R72). -/
def Context.hasNote (c : Context) : Bool :=
  c.lastFrame.isSome && c.onset.isNone && c.bindings.allActive && c.timers.attack.isNone && c.timers.guard.isNone &&
    c.timers.phrase.isNone && c.timers.glideStep.isSome == (c.glide.current != c.glide.target) &&
    match c.note with
    | some n => c.committedPitch == some n.pitch
    | none => false

/-- The table of the performer states (R6). -/
def Context.stateOk (c : Context) : Bool :=
  match c.state with
  | .absent =>
    c.noNote && c.onset.isNone && c.lastFrame.isNone && c.committedPitch.isNone && c.timers == .stopped &&
      c.bindings.noneAtRest
  | .ready => c.noNote && c.onset.isNone && c.lastFrame.isSome && c.timers.attack.isNone && c.bindings.noneAtRest
  | .onset =>
    c.noNote && c.onset.isSome && c.lastFrame.isSome && c.timers.attack.isSome && c.timers.guard.isNone &&
      c.timers.phrase.isNone && c.bindings.allActive
  | .sounding => c.hasNote && !c.candidate && c.timers.settle.isNone
  | .settling => c.hasNote && c.candidate && c.timers.settle.isSome

/-- A context within its laws (R3, R6, R16, R48). -/
def Context.wf (c : Context) : Bool :=
  c.settings.wf && c.glide.wf && c.stateOk && (c.enabled || c.state == .absent) &&
    (!c.deferredOnset || (c.state == .ready && c.timers.guard.isSome)) &&
    match c.committedPitch with
    | some p => p ≤ 127
    | none => true

/-- Every context within its laws. -/
def State.contextsWf (s : State) : Bool := slots.all fun i => (s.ctx i).wf

/-! ### Notes and their voices (R80, R61, R107) -/

/-- A voice record is SOUNDING under a performer exactly when it stands in the voice list of that performer's note (R80). -/
def State.ownedWf (s : State) : Bool :=
  (slots.all fun i => (s.ctx i).noteVoices.Nodup) &&
    voiceIds.all fun v => slots.all fun i =>
      ((s.voice v).state == .sounding && (s.voice v).owner == some i) == (s.ctx i).noteVoices.contains v

/-- No note, no onset and no START or RETAKE while a quiesce is in progress (R61, R107). -/
def State.atRestInQuiesce (s : State) : Bool :=
  match s.quiesce.phase with
  | .quiescing => (slots.all fun i => !(s.ctx i).state.active) && voiceIds.all fun v => !(s.voice v).owesStart
  | .idle => true

/-! ### Management Unit (R166, R167, R169, R170) -/

/-- The reply queue beside the command in progress: its entry is the newest and the only one not built (R167, R169). -/
def Management.entriesOk (m : Management) : Bool :=
  match m.inProgress, m.replies.reverse with
  | none, es => es.all fun e => e.result.isSome
  | some p, e :: es =>
    e == ⟨p.cmd.tag, p.cmd.code, none⟩ && es.all fun e => e.result.isSome
  | some _, [] => false

/-- The Management Unit within its capacities, and no command left waiting that could start (R166, R167, R169, R170). -/
def Management.wf (m : Management) : Bool :=
  m.waiting.length ≤ 2 && m.replies.length ≤ 2 && m.notices.length ≤ 8 && m.entriesOk &&
    (m.inProgress.isSome || m.replies.length == 2 || m.waiting.isEmpty)

/-! ### Restart Controller (R173 to R176) -/

/-- Whether the command in progress is a RESET. -/
def Management.resetting (m : Management) : Bool :=
  match m.inProgress with
  | some ⟨_, .reset⟩ => true
  | _ => false

/-- The quiesce record within its laws: at rest while IDLE; while QUIESCING it has a kind, its limit timer runs, its sets lie
within one another, and some engine has still to answer (R173, R176). -/
def Quiesce.wf (q : Quiesce) : Bool :=
  match q.phase with
  | .idle => q == .idle
  | .quiescing =>
    q.kind.isSome && q.limit.isSome && q.sent &&& ~~~q.waited == 0 && q.acknowledged &&& ~~~q.sent == 0 &&
      q.unacknowledged != 0

/-- A quiesce is in progress exactly while a RESET is the command in progress (R174). -/
def State.restartWf (s : State) : Bool := s.quiesce.wf && (s.quiesce.phase == .quiescing) == s.mgmt.resetting

/-! ### Premises of the statements -/

/-- A console command would start at once: the part runs, nothing is in progress or waiting, a reply entry is free and the
other, if taken, is built (R166, R167). -/
def State.consoleReady (s : State) : Prop :=
  s.power = .running ∧ s.mgmt.inProgress = none ∧ s.mgmt.waiting = [] ∧ s.mgmt.replies.length < 2 ∧
    ∀ e ∈ s.mgmt.replies, e.result ≠ none

/-- The part runs and neither receiver is in the middle of a frame. -/
def State.linesQuiet (s : State) : Prop :=
  s.power = .running ∧ s.gestureRx.collected = [] ∧ s.voiceRx.collected = []

/-- The part runs, its lines are quiet, and gestures are routed: no quiesce is in progress (R157). -/
def State.hearsGestures (s : State) : Prop := s.linesQuiet ∧ s.quiesce.phase = .idle

/-! ### What the statements say of a next state -/

/-- The state with one more built reply, which carries the overrun flag and clears it (R169). -/
def State.answered (s : State) (tag code : Byte) (cause : Option Cause) (data : List Byte) : State :=
  { s with mgmt := { s.mgmt with
      replies := s.mgmt.replies ++ [⟨tag, code, some ⟨cause, s.mgmt.overrun, data⟩⟩]
      overrun := false } }

/-- The state with a command in progress and its entry held (R167). -/
def State.holding (s : State) (tag code : Byte) (params : List Byte) (work : Work) : State :=
  { s with mgmt := { s.mgmt with
      inProgress := some ⟨⟨tag, code, params⟩, work⟩
      replies := s.mgmt.replies ++ [⟨tag, code, none⟩] } }

/-- The state with the held entry of a command in progress built DONE behind the earlier entries: the reply carries the overrun
flag and clears it, and the command is in progress no longer (R167, R169). -/
def State.finished (s : State) (earlier : List ReplyEntry) (c : Cmd) (data : List Byte) : State :=
  { s with mgmt := { s.mgmt with
      inProgress := none
      replies := earlier ++ [⟨c.tag, c.code, some ⟨none, s.mgmt.overrun, data⟩⟩]
      overrun := false } }

/-- The row of the table that a console command is, by its code (R163). -/
def Cmd.row (c : Cmd) : Option Instr :=
  match c.code.toNat with
  | 0x10 => some (.performerSet c.tag c.params)
  | 0x11 => some (.performerEnable c.tag c.params)
  | 0x12 => some (.performerDisable c.tag c.params)
  | 0x13 => some (.performerRead c.tag c.params)
  | 0x20 => some (.bind c.tag c.params)
  | 0x30 => some (.engineSet c.tag c.params)
  | 0x31 => some (.engineRead c.tag c.params)
  | 0x32 => some (.voiceRead c.tag c.params)
  | 0x40 => some (.arbiterSet c.tag c.params)
  | 0x41 => some (.arbiterRead c.tag c.params)
  | 0x50 => some (.tableErase c.tag c.params)
  | 0x51 => some (.tableWrite c.tag c.params)
  | 0x52 => some (.tableCommit c.tag c.params)
  | 0x53 => some (.tableVerify c.tag c.params)
  | 0x54 => some (.tableBlankCheck c.tag c.params)
  | 0x55 => some (.tableRead c.tag c.params)
  | 0x56 => some (.tableLock c.tag c.params)
  | 0x57 => some (.blockRead c.tag c.params)
  | 0x58 => some (.storeClear c.tag c.params)
  | 0x60 => some (.noticeMaskSet c.tag c.params)
  | 0x70 => some (.reset c.tag c.params)
  | _ => none

/-- The state after a store operation has begun on a block: its mark is set, the erase count is raised for an erasure, and its
time is the free value drawn at the counter (R127; log entry 5). -/
def State.storeBegun (s : State) (b : BlockId) (op : StoreOp) : State :=
  { s with
    blocks := s.blocks.set b
      { s.block b with
        op := some op
        eraseCount := (s.block b).eraseCount + (if op = .erase then 1 else 0) }
    storeTimer := Timer.start (1 + Config.storeTime s.freeCount % op.limit)
    freeCount := s.freeCount + 1 }

/-- The state and the work of a STORE CLEAR that has reached a block: the lock is removed; a block that is not worn begins its
erasure, a worn one has no operation in flight and is passed over at once (R136, R139; log entry 25). -/
def State.clearAt (s : State) (b : BlockId) (erased : Nat) (worn : BlockSet) (t : State) (work : Work) : Prop :=
  let unlocked := s.setBlock b { s.block b with locked := false }
  ((s.block b).eraseCount < 1000 → t = unlocked.storeBegun b .erase ∧ work = .storeClear b erased worn) ∧
    (1000 ≤ (s.block b).eraseCount → t = { unlocked with storeTimer := Timer.start 0 } ∧
      work = .passOver b erased worn)

/-- What an event of the section may change: the contexts, the voice records, the notice queue and its flag (R1, R23). -/
def State.onlySection (s t : State) : Prop :=
  t = { s with
    contexts := t.contexts
    voices := t.voices
    mgmt := { s.mgmt with notices := t.mgmt.notices, noticesDropped := t.mgmt.noticesDropped } }

/-- The bindings of a kind after the staged one is applied, if its timing is the one given (R146). -/
def Binding.appliedAt (b : Binding) (timing : StagedTiming) : Binding :=
  match b.staged with
  | some st => if st.timing = timing then ⟨st.target, none⟩ else b
  | none => b

/-- The bindings of every kind after the staged ones of a timing are applied (R146). -/
def Bindings.appliedAll (b : Bindings) (timing : StagedTiming) : Bindings :=
  ⟨b.map.appliedAt timing, b.curve.appliedAt timing, b.plan.appliedAt timing⟩

/-- The contexts but one are unchanged. -/
def State.otherContexts (s t : State) (i : Slot) : Prop := ∀ j, j ≠ i → t.ctx j = s.ctx j

/-- Every voice of a performer's note has had its end request, and no other voice record has changed (R75, R82). -/
def State.voicesEnded (s t : State) (i : Slot) : Prop :=
  ∀ v, t.voice v = if v ∈ (s.ctx i).noteVoices then (s.voice v).ended s.timebase else s.voice v

/-- One allocation request for each layer, in layer order with layer indexes from 1; each answer joins the voice list of the
requester's note (R66, step 4; R74). -/
def State.layersAllocated (s : State) (i : Slot) (velocity : Nat) (layers : List Layer) : State :=
  (layers.zipIdx 1).foldl (fun s x =>
    let answer := s.allocate i x.2 x.1 velocity
    answer.2.setCtx i { answer.2.ctx i with
      note := (answer.2.ctx i).note.map fun n => { n with voices := n.voices ++ [answer.1] } }) s

/-- A note has started at a context on a gesture, with a curve and an attack time: the pitch chosen is committed, the note holds
it with the velocity looked up, the zone found and the answers to one allocation request for each layer, and the glide counter
rests on it. Attack and glide step timers are stopped; the other timers and the deferred onset are left to say
(R30, R54, R66). -/
def State.noteBegun (s t : State) (i : Slot) (g : Gesture) (curve : Curve) (attackTime : Nat) : Prop :=
  let pitch := s.choosePitch i g
  let zone := s.zoneFor i pitch
  let velocity := interpolate curve.velocityPoints attackTime
  let w := (s.setCtx i { s.ctx i with note := some ⟨pitch, zone.map (·.1), velocity, []⟩ }).layersAllocated i velocity
    (layersOf zone)
  t.voices = w.voices ∧ (∀ j, j ≠ i → t.ctx j = w.ctx j) ∧ t.mgmt.notices = w.mgmt.notices ∧
    t.mgmt.noticesDropped = w.mgmt.noticesDropped ∧
    (t.ctx i).timers.attack = none ∧ (t.ctx i).timers.glideStep = none ∧
    t.ctx i = { s.ctx i with
      state := .sounding
      onset := none
      lastFrame := some g
      committedPitch := some pitch
      note := (w.ctx i).note
      glide := ⟨100 * pitch, 100 * pitch, 1, .up⟩
      deferredOnset := (t.ctx i).deferredOnset
      timers := (t.ctx i).timers }

/-- The retake requests of an in-zone transition with the velocity of the note: a SOUNDING voice of the note whose layer copy
says RESTRIKE has a RETAKE pending with the program of its copy, or a START if it had a START pending (R70, R83). -/
def State.restrikes (s t : State) (i : Slot) (velocity : Nat) : Prop :=
  ∀ v, t.voice v =
    match (s.voice v).copy with
    | some copy =>
      if v ∈ (s.ctx i).noteVoices ∧ (s.voice v).state = .sounding ∧ copy.legato = .restrike then
        { s.voice v with pending :=
            match (s.voice v).pending with
            | some (.start _ _) => some (.start copy.program velocity)
            | _ => some (.retake copy.program velocity) }
      else s.voice v
    | none => s.voice v

/-- A performer's note has moved to a pitch (R69): from silent to silent the note and the glide counter take the pitch at once;
within its zone the RESTRIKE voices are retaken and the glide is retargeted with the zone's glide time (R70); into another zone
its voices are ended and those of the new zone's layers allocated, with the glide at rest on the pitch (R74). -/
def State.movesNote (s t : State) (i : Slot) (n : NoteRecord) (pitch : Nat) : Prop :=
  let c := s.ctx i
  let zone := s.zoneFor i pitch
  (n.zone = none → zone = none →
    t = s.setCtx i { c with
      note := some { n with pitch := pitch }
      glide := { c.glide with current := 100 * pitch, target := 100 * pitch }
      timers := { c.timers with glideStep := none } }) ∧
  (∀ k z, n.zone = some k → zone = some (k, z) →
    ∃ w : State, w = { s.setCtx i { c with note := some { n with pitch := pitch } } with voices := w.voices } ∧
      s.restrikes w i n.velocity ∧ t = w.retargetGlide i (100 * pitch) z.glideTime) ∧
  (n.zone ≠ zone.map (·.1) →
    ∃ w : State, w = { s.setCtx i { c with
          note := some ⟨pitch, zone.map (·.1), n.velocity, []⟩
          glide := ⟨100 * pitch, 100 * pitch, 1, .up⟩
          timers := { c.timers with glideStep := none } } with voices := w.voices } ∧
      s.voicesEnded w i ∧ t = w.layersAllocated i n.velocity (layersOf zone))

/-- A settle commit on a gesture has been made: an unmapped pattern or one that gives the committed pitch moves nothing, any
other pitch moves the note and becomes the committed pitch (R33). -/
def State.commits (s t : State) (i : Slot) (g : Gesture) : Prop :=
  (s.resolve i g = none ∨ s.resolve i g = (s.ctx i).committedPitch → t = s) ∧
    ∀ p n, s.resolve i g = some p → (s.ctx i).committedPitch ≠ some p → (s.ctx i).note = some n →
      ∃ u, s.movesNote u i n p ∧ t = u.setCtx i { u.ctx i with committedPitch := some p }

/-- The state after the staged AT REST bindings of some slots are applied, slot by slot (R146, R153). -/
def State.atRestApplied (s : State) (p : Slot → Bool) : State :=
  forEach (slots.filter p) (fun i s => s.applyAll i .atRest) s

/-- A quiesce has ended with a hushed set and the effects of the RESET's kind have been taken; the reply is still to be built
(R177, R178). A SECTION leaves the performers without notes, onsets and timers and every existing voice FREE, and applies
staged AT REST bindings (R22, R103); a FULL leaves contexts, voices, engines, arbiter and notice mask at their reset values but
for the pending control frames and the frame in flight (R21, R103, R120, R172). -/
def State.resetBy (s t : State) (kind : ResetKind) (hushed : EngineSet) : Prop :=
  let control (e : EngineId) : Option Control :=
    if EngineSet.has hushed e = true then some .hush else (s.engine e).pendingControl
  t = { s with
    contexts := t.contexts
    voices := t.voices
    engines := t.engines
    arbiter := t.arbiter
    quiesce := .idle
    mgmt := { s.mgmt with
      notices := t.mgmt.notices, noticesDropped := t.mgmt.noticesDropped, mask := t.mgmt.mask } } ∧
  match kind with
  | .sectionOnly =>
    (∀ i, t.ctx i = { s.ctx i with
      state := if (s.ctx i).state = .absent then .absent else .ready
      committedPitch := none
      onset := none
      deferredOnset := false
      note := none
      candidate := false
      glide := ⟨0, 0, 1, .up⟩
      timers := ⟨none, none, none, none, none, none⟩
      bindings := (s.ctx i).bindings.appliedAll .atRest }) ∧
    (∀ v, t.voice v = { s.voice v with
      state := if s.voiceExists v = true then .free else .disabled
      owner := none
      layer := none
      copy := none
      pending := none
      flags := .clear
      tailTimer := none }) ∧
    (∀ e, t.engine e = { s.engine e with pendingControl := control e }) ∧ t.arbiter = s.arbiter ∧
    t.mgmt.notices = (s.atRestApplied fun _ => true).mgmt.notices ∧
    t.mgmt.noticesDropped = (s.atRestApplied fun _ => true).mgmt.noticesDropped ∧ t.mgmt.mask = s.mgmt.mask
  | .full =>
    (∀ i, t.ctx i = .initial) ∧ (∀ v, t.voice v = .initial) ∧
    (∀ e, t.engine e = ⟨false, none, false, 125, control e⟩) ∧
    t.arbiter = ⟨some .control, .default, ⟨none, none, none⟩, ⟨none, none, none, none, none⟩, s.arbiter.transmitter⟩ ∧
    t.mgmt.notices = s.mgmt.notices ∧ t.mgmt.noticesDropped = s.mgmt.noticesDropped ∧ t.mgmt.mask = 0x4F

/-! ### What the statements say of a selection -/

/-- A voice record has an eligible item in a class: its engine is not held, and it owes what the class serves
(R90, R106 to R108). -/
def State.owes (s : State) (c : ServiceClass) (v : VoiceId) : Prop :=
  let r := s.voice v
  (s.engine (engineOf v)).held = false ∧
    match c with
    | .start =>
      s.quiesce.phase = .idle ∧
        ∃ program velocity, r.pending = some (.start program velocity) ∨ r.pending = some (.retake program velocity)
    | .ending => r.pending = some .ending
    | .pitch => r.state = .sounding ∧ r.pending = none ∧ r.flags.pitch = true
    | .level => r.state = .sounding ∧ r.pending = none ∧ r.flags.level = true
    | .timbre => r.state = .sounding ∧ r.pending = none ∧ r.flags.timbre = true
    | .control => False
    | .reply => False
    | .notice => False

/-- A class has an eligible item (R106). -/
def State.classEligible (s : State) (c : ServiceClass) : Prop :=
  (∃ v, s.owes c v) ∨
    (c = .control ∧ (s.broadcastHush = true ∨ ∃ e, (s.engine e).pendingControl ≠ none)) ∨
    (c = .reply ∧ ∃ e rest, s.mgmt.replies = e :: rest ∧ e.result ≠ none) ∨ (c = .notice ∧ s.mgmt.notices ≠ [])

/-- How far a number lies behind a rotation point among `n` numbers in cyclic order; with the point absent the order begins at
the lowest (R112, R113). -/
def cyclicDistance (n : Nat) (point : Option Nat) (x : Nat) : Nat :=
  match point with
  | some p => (x + n - 1 - p) % n
  | none => x

/-- A choice has been taken with its bytes: they are in flight for their length and three byte times, the rotation points of the
band that served it and of its voice class stand at it, and nothing else of the arbiter has changed
(R104, R110, R112, R113, R160). -/
def Arbiter.serves (a b : Arbiter) (ch : Choice) (bytes : List Byte) : Prop :=
  b.transmitter = some ⟨ch.cls, bytes, bytes.length + 3⟩ ∧ b.express = a.express ∧ b.bands = a.bands ∧
    (∀ x, b.bandPoints.get x = if ch.band = some x then some ch.cls else a.bandPoints.get x) ∧
    ∀ c, b.voicePoints.get c =
      match ch.item with
      | .voice v => if c = ch.cls then some v else a.voicePoints.get c
      | _ => a.voicePoints.get c

/-! ### Frames that carry a content (R162) -/

/-- A gesture within the ranges of R2. -/
def Gesture.inRange (g : Gesture) : Prop :=
  -3 ≤ g.octave ∧ g.octave ≤ 3 ∧ g.breath ≤ 1023 ∧ g.bite ≤ 255 ∧ g.lip ≤ 255

/-- The GESTURE frame of a slot with a content (R162). -/
def gestureFrame (i : Slot) (g : Gesture) : List Byte :=
  closed (kindByte 1 i.val :: be24 g.keys ++ [signedByte g.octave] ++ be16 g.breath ++ [byte g.bite, byte g.lip])

/-- The COMMAND frame with a tag, a command code and parameters (R162). -/
def commandFrame (tag code : Byte) (params : List Byte) : List Byte :=
  closed ([0x2F, tag, code, byte params.length] ++ params)

/-- The frame of an engine with the bytes after its first (R162). -/
def engineFrame (kind : Nat) (e : EngineId) (body : List Byte) : List Byte := closed (kindByte kind e.val :: body)

/-- The command that a GESTURE frame of a slot with a content is. -/
def gestureCommand (i : Slot) (g : Gesture) : Instr := .gesture (BitVec.ofNat 4 i.val) (gestureFrame i g).tail

/-- The command that a COMMAND frame is. -/
def frameCommand (tag code : Byte) (params : List Byte) : Instr := .command 15 (commandFrame tag code params).tail

/-- The state after a frame of the Gesture Link that had no other effect: the receiver has seen an idle line (R154). -/
def State.heard (s : State) (l : Link) : State := s.setReceiver l .idle

end Sys2Proof.Machine
end

