-- ==== Sys2Proof/Certificates/Slice0/Obligations.lean ====
section
/-! DEFINITION. The statements for the provers: what each command does, its frame, and the laws that every step keeps. -/

section

open Sys2Proof Sys2Proof.Machine

/-! ### The machine -/

/-- A step takes the command at the front of the queue and is its meaning on the rest of the queue. -/
def Obligations.StepRunsFrontCommand : Prop :=
  ∀ (c : Instr) (rest : List Instr) (s : State), s.pending = c :: rest → step s = exec c { s with pending := rest }

/-- Every command of the table answers a next state, in every state, and leaves the queue to the step: no condition stops the part
(the model's reading, log entry 21). A part that is held in reset or has no power takes nothing but a hard reset, a loss of
power and a start-up, and its clock stands still: R165 and R179 say so of the frames of a part held in reset, the rest is the
model's choice (log entries 1 and 6). -/
def Obligations.EveryCommandCompletes : Prop :=
  (∀ (c : Instr) (s : State), ∃ t, exec c s = .next t ∧ t.pending = s.pending) ∧
    ∀ s : State, s.power ≠ .running →
      (s.pending = [] → step s = .next s) ∧
        ∀ c : Instr, (∀ cause, c ≠ .hardReset cause) → c ≠ .powerLoss → c ≠ .startUp → exec c s = .next s

/-- With no command waiting and nothing due, the running part with an idle transmitter comes to its next tu: the timebase counts
it and every timer has one tu less (R3, R4; the model's choice, log entries 1 and 4). -/
def Obligations.ClockCountsTu : Prop :=
  ∀ s : State, s.pending = [] → s.power = .running → s.dueEvents = [] → s.arbiter.transmitter = none →
    ∃ t, step s = .next t ∧
      (∀ i, t.ctx i = { s.ctx i with timers := (s.ctx i).timers.tick }) ∧
      (∀ v, t.voice v = { s.voice v with tailTimer := (s.voice v).tailTimer.tick }) ∧
      t = { s with
        contexts := t.contexts
        voices := t.voices
        quiesce := { s.quiesce with limit := s.quiesce.limit.tick }
        storeTimer := s.storeTimer.tick
        timebase := s.timebase + 1
        phase := 0 }

/-! ### Laws that every step keeps -/

/-- The queues of the Management Unit stay within their capacities, the held reply entry is the newest, and no command that could
start is left waiting (R166, R167, R169, R170). -/
def Obligations.ManagementLawsKept : Prop :=
  ∀ s t : State, s.mgmt.wf = true → step s = .next t → t.mgmt.wf = true

/-- The quiesce record stays within its laws, and a quiesce is in progress exactly while a RESET is (R173, R174, R176). -/
def Obligations.RestartLawsKept : Prop :=
  ∀ s t : State, s.restartWf = true → step s = .next t → t.restartWf = true

/-- Table Memory keeps its canonical form and its laws, every binding names a VALID block of its kind, and the operation in flight
is that of the command in progress (R121 to R127, R139, R142). -/
def Obligations.StoreLawsKept : Prop :=
  ∀ s t : State, s.storeWf = true → s.restartWf = true → step s = .next t → t.storeWf = true

/-- The voice and engine records stay within the table of the voice states (R80, R99). -/
def Obligations.PoolLawsKept : Prop :=
  ∀ s t : State, s.poolWf = true → step s = .next t → t.poolWf = true

/-- Every context stays within the table of the performer states and its ranges (R3, R6, R16). -/
def Obligations.ContextLawsKept : Prop :=
  ∀ s t : State, s.contextsWf = true → step s = .next t → t.contextsWf = true

/-- A voice record stays SOUNDING exactly when it stands in its owner's voice list, and a quiesce stays without notes, onsets and
strikes (R61, R80, R107). -/
def Obligations.OwnershipLawKept : Prop :=
  ∀ s t : State, s.poolWf = true → s.contextsWf = true → s.restartWf = true → s.ownedWf = true →
    s.atRestInQuiesce = true → step s = .next t → t.ownedWf = true ∧ t.atRestInQuiesce = true

/-- The part right after reset is within all these laws. -/
def Obligations.ResetIsLawful : Prop :=
  State.reset.mgmt.wf = true ∧ State.reset.restartWf = true ∧ State.reset.storeWf = true ∧
    State.reset.poolWf = true ∧ State.reset.contextsWf = true ∧ State.reset.ownedWf = true ∧
    State.reset.atRestInQuiesce = true ∧ Memory.wf State.reset.blocks = true

/-- The table in a bound block does not change, whatever the step, so a performer reads one table for as long as its binding
stands (R25, R43, R63, R137, R142). -/
def Obligations.BoundTableNeverChanges : Prop :=
  ∀ (s t : State) (b : BlockId), s.storeWf = true → s.restartWf = true → s.bound b = true → step s = .next t →
    (t.block b).cells = (s.block b).cells ∧ (t.block b).kind = (s.block b).kind ∧
      (t.block b).state = (s.block b).state

/-! ### Frames of the links -/

/-- A frame laid out with a content in range is judged to carry exactly that content: GESTURE and COMMAND frames on the Gesture
Link, the five frames of the engines on the inbound Voice Link (R156, R158, R161, R162). -/
def Obligations.InboundFramesAreRead : Prop :=
  (∀ (i : Slot) (g : Gesture), g.inRange → judgeGestureLink (gestureFrame i g) = some (.gesture i g)) ∧
    (∀ (tag code : Byte) (params : List Byte), params.length ≤ 40 →
      judgeGestureLink (commandFrame tag code params) = some (.command ⟨tag, code, params⟩)) ∧
    ∀ e : EngineId,
      (∀ n, 1 ≤ n → n ≤ 24 → judgeVoiceLink (engineFrame 1 e [byte n]) = some (.hello e n)) ∧
        (∀ (n : Fin 24) (tag : Byte),
          judgeVoiceLink (engineFrame 2 e [byte n.val, tag]) = some (.tailDone (voiceAt e n) tag)) ∧
        judgeVoiceLink (engineFrame 3 e []) = some (.hold e) ∧
        judgeVoiceLink (engineFrame 4 e []) = some (.go e) ∧
        judgeVoiceLink (engineFrame 5 e []) = some (.quiesceAck e)

/-- A frame that fails a test of its link is discarded without trace: only the receiver has seen the line idle. The tests are the
check value, the kind, the slot or engine, the length and the range of each field; a frame of another kind that stands collected
goes with the idle line before the next frame (log entry 10). So does a well-formed GESTURE frame for a disabled slot or during a
quiesce (R7, R155 to R158). -/
def Obligations.DiscardedFramesLeaveNoTrace : Prop :=
  (∀ (s : State) (a : BitVec 4) (rest : List Byte), s.linesQuiet →
    let silent (l : Link) (c : Instr) : Prop := exec c s = .next (s.heard l)
    let unsound (kind : Nat) : Prop := checkHolds (kindByte kind a.toNat :: rest) = false
    (unsound 1 ∨ 8 ≤ a.toNat ∨ rest.length ≠ 9 → silent .gesture (.gesture a rest)) ∧
    (∀ k1 k2 k3 octave b1 b2 bite lip check : Byte, rest = [k1, k2, k3, octave, b1, b2, bite, lip, check] →
      octave.toInt < -3 ∨ 3 < octave.toInt ∨ 1023 < 256 * b1.toNat + b2.toNat → silent .gesture (.gesture a rest)) ∧
    (unsound 2 ∨ a ≠ 15 ∨ rest.length < 4 → silent .gesture (.command a rest)) ∧
    (∀ (tag code n : Byte) (tail : List Byte), rest = tag :: code :: n :: tail →
      40 < n.toNat ∨ tail.length ≠ n.toNat + 1 → silent .gesture (.command a rest)) ∧
    (unsound 1 ∨ 4 ≤ a.toNat ∨ rest.length ≠ 2 → silent .voice (.hello a rest)) ∧
    (∀ n check : Byte, rest = [n, check] → n = 0 ∨ 24 < n.toNat → silent .voice (.hello a rest)) ∧
    (unsound 2 ∨ 4 ≤ a.toNat ∨ rest.length ≠ 3 → silent .voice (.tailDone a rest)) ∧
    (∀ n tag check : Byte, rest = [n, tag, check] → 24 ≤ n.toNat → silent .voice (.tailDone a rest)) ∧
    (unsound 3 ∨ 4 ≤ a.toNat ∨ rest.length ≠ 1 → silent .voice (.hold a rest)) ∧
    (unsound 4 ∨ 4 ≤ a.toNat ∨ rest.length ≠ 1 → silent .voice (.go a rest)) ∧
    (unsound 5 ∨ 4 ≤ a.toNat ∨ rest.length ≠ 1 → silent .voice (.quiesceAck a rest))) ∧
  (∀ (s : State) (first : Byte) (body : List Byte) (a : BitVec 4) (rest : List Byte), s.power = .running →
    let kind : Nat := first.toNat / 16
    (s.gestureRx.collected = first :: body → kind ≠ 1 → kind ≠ 2 →
      exec (.gesture a rest) s = exec (.gesture a rest) (s.heard .gesture) ∧
        exec (.command a rest) s = exec (.command a rest) (s.heard .gesture)) ∧
    (s.voiceRx.collected = first :: body → kind < 1 ∨ 5 < kind →
      ∀ c ∈ ([.hello a rest, .tailDone a rest, .hold a rest, .go a rest, .quiesceAck a rest] : List Instr),
        exec c s = exec c (s.heard .voice))) ∧
  ∀ (s : State) (i : Slot) (g : Gesture), s.linesQuiet → g.inRange →
    s.quiesce.phase = .quiescing ∨ (s.ctx i).enabled = false →
    exec (gestureCommand i g) s = .next (s.heard .gesture)

/-- Every frame taken for transmission ends in its check value and has its sending time: its length and three byte times. The
transmit completion leaves the transmitter IDLE and changes nothing else (R104, R155, R160); that a commanded completion does so
whatever is left of the sending time, and changes nothing while the transmitter is IDLE, is the model's choice
(log entry 24). -/
def Obligations.TransmissionRunsToCompletion : Prop :=
  (∀ (s t : State) (f : InFlight), s.arbiter.transmitter = none → exec .selection s = .next t →
    t.arbiter.transmitter = some f → checkHolds f.bytes = true ∧ 2 ≤ f.bytes.length ∧ f.left = f.bytes.length + 3) ∧
  ∀ s : State, s.power = .running →
    exec .transmitCompletion s = .next { s with arbiter := { s.arbiter with transmitter := none } }

/-- Bytes with no idle line between them: fewer than 48 are collected, the 48th ends the frame, which is discarded, and nothing
is collected until the line is idle (R154). -/
def Obligations.FrameCutAt48Bytes : Prop :=
  ∀ (s : State) (l : Link) (bytes : List Byte), s.power = .running → (s.receiver l).collected = [] →
    ((s.receiver l).awaitingIdle = false → bytes.length < 48 →
      exec (.receiverFrameCut l bytes) s = .next (s.setReceiver l ⟨bytes, false⟩)) ∧
    ((s.receiver l).awaitingIdle = false → 48 ≤ bytes.length →
      exec (.receiverFrameCut l bytes) s = .next (s.setReceiver l ⟨[], true⟩)) ∧
    ((s.receiver l).awaitingIdle = true → exec (.receiverFrameCut l bytes) s = .next s)

/-! ### GESTURE -/

/-- A GESTURE frame joins an enabled ABSENT performer: READY, silence and phrase timers started, PERFORMER JOINED offered, and the
frame judged as in READY. One that does not cross the onset threshold is only kept; one that crosses it, with all kinds bound,
begins ONSET, or with an attack window of 0 the note itself (R8, R46, R47). -/
def Obligations.GestureJoins : Prop :=
  ∀ (s : State) (i : Slot) (g : Gesture), s.hearsGestures → g.inRange → (s.ctx i).enabled = true →
    (s.ctx i).state = .absent → (s.ctx i).bindings.noneAtRest = true →
    let crosses (curve : Curve) : Prop := (s.ctx i).bindings.allActive = true ∧ s.activeCurve i = some curve ∧
      curve.onsetThreshold ≤ g.breath
    let running : Timers := { (s.ctx i).timers with silence := Timer.start (16 * (s.ctx i).settings.silenceLimit) }
    ((∀ curve, ¬ crosses curve) →
      exec (gestureCommand i g) s = .next (((s.heard .gesture).setCtx i
        { s.ctx i with
          state := .ready
          lastFrame := some g
          timers := { running with phrase := Timer.start (64 * (s.ctx i).settings.phraseGap) } }).offer
        (.performerJoined i))) ∧
    (∀ curve, crosses curve → (s.ctx i).timers.guard = none → (s.ctx i).settings.attackWindow ≠ 0 →
      exec (gestureCommand i g) s = .next (((s.heard .gesture).setCtx i
        { s.ctx i with
          state := .onset
          onset := some ⟨s.timebase, g.breath⟩
          lastFrame := some g
          timers := { running with attack := Timer.start (s.ctx i).settings.attackWindow, phrase := none } }).offer
        (.performerJoined i))) ∧
    (∀ curve, crosses curve → (s.ctx i).timers.guard = none → (s.ctx i).settings.attackWindow = 0 →
      ∃ t, exec (gestureCommand i g) s = .next t ∧ (s.offer (.performerJoined i)).noteBegun t i g curve 0 ∧
        (t.ctx i).timers = { running with attack := none, glideStep := none, phrase := none } ∧
        (t.ctx i).deferredOnset = (s.ctx i).deferredOnset ∧ (s.heard .gesture).onlySection t)

/-- A GESTURE frame in READY: at or above the onset threshold with all kinds bound and an attack window it begins ONSET while the
guard is stopped and is deferred while it runs; a frame that does not cross only starts the silence timer again and is kept
(R9, R46, R47, R48). -/
def Obligations.GestureCrossesThreshold : Prop :=
  ∀ (s : State) (i : Slot) (g : Gesture), s.hearsGestures → g.inRange → (s.ctx i).enabled = true →
    (s.ctx i).state = .ready →
    let crosses (curve : Curve) : Prop := (s.ctx i).bindings.allActive = true ∧ s.activeCurve i = some curve ∧
      curve.onsetThreshold ≤ g.breath
    let running : Timers := { (s.ctx i).timers with silence := Timer.start (16 * (s.ctx i).settings.silenceLimit) }
    (∀ curve, crosses curve → (s.ctx i).timers.guard = none → (s.ctx i).settings.attackWindow ≠ 0 →
      exec (gestureCommand i g) s = .next ((s.heard .gesture).setCtx i
        { s.ctx i with
          state := .onset
          onset := some ⟨s.timebase, g.breath⟩
          lastFrame := some g
          timers := { running with attack := Timer.start (s.ctx i).settings.attackWindow, phrase := none } })) ∧
    (∀ curve, crosses curve → (s.ctx i).timers.guard ≠ none →
      exec (gestureCommand i g) s = .next ((s.heard .gesture).setCtx i
        { s.ctx i with deferredOnset := true, lastFrame := some g, timers := running })) ∧
    ((∀ curve, ¬ crosses curve) →
      exec (gestureCommand i g) s = .next ((s.heard .gesture).setCtx i
        { s.ctx i with lastFrame := some g, timers := running }))

/-- A GESTURE frame under attack. In ONSET a peak starts the note with the attack time measured from the onset; a ghost, below the
release threshold, drops the onset and leaves READY with the phrase timer started and staged AT REST bindings applied; any other
frame only raises the maximum. In READY a crossing with an attack window of 0 starts the note with attack time 0
(R47, R49, R50, R54). -/
def Obligations.GestureStartsNote : Prop :=
  ∀ (s : State) (i : Slot) (g : Gesture) (curve : Curve), s.hearsGestures → g.inRange → (s.ctx i).enabled = true →
    s.activeCurve i = some curve →
    let running : Timers := { (s.ctx i).timers with silence := Timer.start (16 * (s.ctx i).settings.silenceLimit) }
    (∀ o, (s.ctx i).state = .onset → (s.ctx i).onset = some o → curve.releaseThreshold ≤ g.breath →
      g.breath + curve.peakDrop ≤ max o.maxBreath g.breath →
      ∃ t, exec (gestureCommand i g) s = .next t ∧ s.noteBegun t i g curve (s.age o.time) ∧
        (t.ctx i).timers = { running with attack := none, glideStep := none } ∧
        (t.ctx i).deferredOnset = (s.ctx i).deferredOnset ∧ (s.heard .gesture).onlySection t) ∧
    (∀ o, (s.ctx i).state = .onset → (s.ctx i).onset = some o → curve.releaseThreshold ≤ g.breath →
      max o.maxBreath g.breath < g.breath + curve.peakDrop →
      exec (gestureCommand i g) s = .next ((s.heard .gesture).setCtx i
        { s.ctx i with
          onset := some ⟨o.time, max o.maxBreath g.breath⟩, lastFrame := some g, timers := running })) ∧
    ((s.ctx i).state = .onset → g.breath < curve.releaseThreshold →
      exec (gestureCommand i g) s = .next { (s.heard .gesture).setCtx i
        { s.ctx i with
          state := .ready
          onset := none
          lastFrame := some g
          bindings := (s.ctx i).bindings.appliedAll .atRest
          timers := { running with
            attack := none, phrase := Timer.start (64 * (s.ctx i).settings.phraseGap) } } with
        mgmt := (s.applyAll i .atRest).mgmt }) ∧
    ((s.ctx i).state = .ready → (s.ctx i).bindings.allActive = true → (s.ctx i).timers.guard = none →
      (s.ctx i).settings.attackWindow = 0 → curve.onsetThreshold ≤ g.breath →
      ∃ t, exec (gestureCommand i g) s = .next t ∧ s.noteBegun t i g curve 0 ∧
        (t.ctx i).timers = { running with attack := none, glideStep := none, phrase := none } ∧
        (t.ctx i).deferredOnset = (s.ctx i).deferredOnset ∧ (s.heard .gesture).onlySection t)

/-- A GESTURE frame below the release threshold releases the note: each of its voices gets its end request, READY, the guard and
the phrase timer started, staged AT REST bindings applied, the committed pitch kept (R37, R55, R56). -/
def Obligations.GestureReleasesNote : Prop :=
  ∀ (s : State) (i : Slot) (g : Gesture) (curve : Curve), s.hearsGestures → g.inRange → (s.ctx i).enabled = true →
    (s.ctx i).state = .sounding ∨ (s.ctx i).state = .settling → s.activeCurve i = some curve →
    g.breath < curve.releaseThreshold →
    ∃ t, exec (gestureCommand i g) s = .next t ∧ s.voicesEnded t i ∧ s.otherContexts t i ∧
      (s.heard .gesture).onlySection t ∧ t.mgmt = (s.applyAll i .atRest).mgmt ∧
      t.ctx i = { s.ctx i with
        state := .ready
        note := none
        candidate := false
        lastFrame := some g
        bindings := (s.ctx i).bindings.appliedAll .atRest
        timers := { (s.ctx i).timers with
          silence := Timer.start (16 * (s.ctx i).settings.silenceLimit)
          settle := none
          glideStep := none
          guard := Timer.startIfAny (s.ctx i).settings.guardTime
          phrase := Timer.start (64 * (s.ctx i).settings.phraseGap) } }

/-- A frame in SOUNDING or SETTLING at or above the release threshold. A pattern change with a settle time opens the settle window
or starts it again, with the note, its committed pitch and its glide as they are; with a settle time of 0 it closes the window
and commits at once; without a change the window goes on. In every case LEVEL, TIMBRE and PITCH are then set on the note's
voices where the derived value differs from the last frame's, and nothing else of any voice changes
(R31, R32, R34, R35, R57 to R60, R84). -/
def Obligations.GestureInSoundingNote : Prop :=
  ∀ (s : State) (i : Slot) (g l : Gesture) (curve : Curve), s.hearsGestures → g.inRange → (s.ctx i).enabled = true →
    (s.ctx i).state = .sounding ∨ (s.ctx i).state = .settling → (s.ctx i).note ≠ none →
    s.activeCurve i = some curve → curve.releaseThreshold ≤ g.breath → (s.ctx i).lastFrame = some l →
    let c := s.ctx i
    let changed : Prop := l.keys ≠ g.keys ∨ l.octave ≠ g.octave
    let running : Timers := { c.timers with silence := Timer.start (16 * c.settings.silenceLimit) }
    let expressed (u t : State) : Prop :=
      t = { u.setCtx i { u.ctx i with lastFrame := some g } with voices := t.voices } ∧
      ∀ v, t.voice v =
        if v ∈ (u.ctx i).noteVoices ∧ (u.voice v).state = .sounding then
          { u.voice v with flags :=
            ⟨(u.voice v).flags.pitch || curve.lipBend g != curve.lipBend l,
              (u.voice v).flags.level || curve.noteLevel g != curve.noteLevel l,
              (u.voice v).flags.timbre || curve.timbre g != curve.timbre l⟩ }
        else u.voice v
    (¬ changed → ∃ t, exec (gestureCommand i g) s = .next t ∧
      expressed ((s.heard .gesture).setCtx i { c with timers := running }) t) ∧
    (changed → c.settings.settleTime ≠ 0 → ∃ t, exec (gestureCommand i g) s = .next t ∧
      expressed ((s.heard .gesture).setCtx i
        { c with
          state := .settling
          candidate := if c.state = .sounding then true else c.candidate
          timers := { running with settle := Timer.start c.settings.settleTime } }) t) ∧
    (changed → c.settings.settleTime = 0 → ∃ u t, exec (gestureCommand i g) s = .next t ∧
      State.commits ((s.heard .gesture).setCtx i
        (if c.state = .settling then
          { c with state := .sounding, candidate := false, timers := { running with settle := none } }
        else { c with timers := running })) u i g ∧ expressed u t)

/-! ### Expiries at a context -/

/-- The settle expiry closes the window and commits the last frame's pattern: an unmapped pattern or one that gives the committed
pitch moves nothing; any other pitch is committed and moves the note, silent to silent, within its zone or into another zone
(R33, R36, R69, R70, R74). -/
def Obligations.SettleExpiryCommits : Prop :=
  ∀ (s : State) (i : Slot) (g : Gesture), s.power = .running → (s.ctx i).state = .settling →
    (s.ctx i).timers.settle ≠ none → (s.ctx i).lastFrame = some g → (s.ctx i).note ≠ none →
    ∃ t, exec (.settleExpiry i) s = .next t ∧
      State.commits (s.setCtx i
        { s.ctx i with
          state := .sounding
          candidate := false
          timers := { (s.ctx i).timers with settle := none } }) t i g ∧
      s.onlySection t

/-- The attack expiry starts the note on the last frame, with the length the timer was started with as the attack time (R51). -/
def Obligations.AttackExpiryStartsNote : Prop :=
  ∀ (s : State) (i : Slot) (g : Gesture) (curve : Curve) (run : Run), s.power = .running → (s.ctx i).state = .onset →
    (s.ctx i).timers.attack = some run → (s.ctx i).lastFrame = some g → s.activeCurve i = some curve →
    ∃ t, exec (.attackExpiry i) s = .next t ∧ s.noteBegun t i g curve run.length ∧
      (t.ctx i).timers = { (s.ctx i).timers with attack := none, glideStep := none } ∧
      (t.ctx i).deferredOnset = (s.ctx i).deferredOnset ∧ s.onlySection t

/-- The guard expiry in READY begins the deferred onset when all kinds are bound, no quiesce is in progress and the last frame's
breath is at or above the onset threshold: ONSET, or the note itself with an attack window of 0. In any other case it begins
nothing. Either way deferred onset becomes no (R52, R61). -/
def Obligations.GuardExpiryJudgesDeferredOnset : Prop :=
  ∀ (s : State) (i : Slot) (g : Gesture), s.power = .running → (s.ctx i).state = .ready →
    (s.ctx i).timers.guard ≠ none → (s.ctx i).lastFrame = some g →
    let judged (curve : Curve) : Prop := s.activeCurve i = some curve ∧ (s.ctx i).deferredOnset = true ∧
      (s.ctx i).bindings.allActive = true ∧ s.quiesce.phase = .idle ∧ curve.onsetThreshold ≤ g.breath
    (∀ curve, judged curve → (s.ctx i).settings.attackWindow ≠ 0 →
      exec (.guardExpiry i) s = .next (s.setCtx i
        { s.ctx i with
          state := .onset
          deferredOnset := false
          onset := some ⟨s.timebase, g.breath⟩
          timers := { (s.ctx i).timers with
            guard := none
            phrase := none
            attack := Timer.start (s.ctx i).settings.attackWindow } })) ∧
    (∀ curve, judged curve → (s.ctx i).settings.attackWindow = 0 →
      ∃ t, exec (.guardExpiry i) s = .next t ∧ s.noteBegun t i g curve 0 ∧ (t.ctx i).deferredOnset = false ∧
        (t.ctx i).timers = { (s.ctx i).timers with guard := none, phrase := none, attack := none, glideStep := none } ∧
        s.onlySection t) ∧
    ((∀ curve, ¬ judged curve) →
      exec (.guardExpiry i) s = .next (s.setCtx i
        { s.ctx i with deferredOnset := false, timers := { (s.ctx i).timers with guard := none } }))

/-- The silence expiry loses a present performer: its note is ended without the guard, the context is left ABSENT with its
settings and active bindings but for staged AT REST bindings applied, and PERFORMER LOST is offered last (R10, R11). -/
def Obligations.SilenceExpiryLosesPerformer : Prop :=
  ∀ (s : State) (i : Slot), s.power = .running → (s.ctx i).state ≠ .absent → (s.ctx i).timers.silence ≠ none →
    ∃ t u, exec (.silenceExpiry i) s = .next t ∧ t = u.offer (.performerLost i) ∧ s.onlySection u ∧
      u.mgmt = (s.applyAll i .atRest).mgmt ∧
      s.voicesEnded t i ∧ s.otherContexts t i ∧
      t.ctx i = { s.ctx i with
        state := .absent
        timers := .stopped
        onset := none
        note := none
        candidate := false
        deferredOnset := false
        lastFrame := none
        committedPitch := none
        bindings := (s.ctx i).bindings.appliedAll .atRest }

/-- The phrase expiry in READY stops the timer and applies the staged AT PHRASE bindings. Applying the staged binding of a kind
makes its target the active binding, leaves nothing staged and offers BINDING APPLIED; the kinds come in the order MAP, CURVE,
PLAN, and the rest of the context, the other contexts and every voice are unchanged (R146, R150). -/
def Obligations.PhraseExpiryApplies : Prop :=
  (∀ (s : State) (i : Slot), s.power = .running → (s.ctx i).state = .ready → (s.ctx i).timers.phrase ≠ none →
    exec (.phraseExpiry i) s = .next ((s.setCtx i
      { s.ctx i with timers := { (s.ctx i).timers with phrase := none } }).applyAll i .atPhrase)) ∧
  ∀ (s : State) (i : Slot) (timing : StagedTiming),
    (∀ k, s.applyStaged i timing k =
      match ((s.ctx i).bindings.get k).staged with
      | some st =>
        if st.timing = timing then
          (s.setCtx i ((s.ctx i).setBinding k ⟨st.target, none⟩)).offer (.bindingApplied i k st)
        else s
      | none => s) ∧
    s.applyAll i timing = ((s.applyStaged i timing .map).applyStaged i timing .curve).applyStaged i timing .plan ∧
    (s.applyAll i timing).ctx i = { s.ctx i with bindings := (s.ctx i).bindings.appliedAll timing } ∧
    s.otherContexts (s.applyAll i timing) i ∧ s.onlySection (s.applyAll i timing) ∧
    (s.applyAll i timing).voices = s.voices

/-- A glide step moves the current value toward the target by the step, not past it, sets PITCH on the note's SOUNDING GLIDE
voices and on no other, and starts the timer again unless the target is reached (R72). -/
def Obligations.GlideStepMovesTowardTarget : Prop :=
  ∀ (s : State) (i : Slot), s.power = .running → (s.ctx i).timers.glideStep ≠ none → (s.ctx i).note ≠ none →
    (s.ctx i).glide.wf = true → (s.ctx i).glide.current ≠ (s.ctx i).glide.target →
    ∃ t, exec (.glideStepExpiry i) s = .next t ∧
      (let g := (s.ctx i).glide
       let current := if g.current < g.target then min g.target (g.current + g.step) else max g.target (g.current - g.step)
       t = { s.setCtx i
         { s.ctx i with
           glide := { g with current := current }
           timers := { (s.ctx i).timers with
             glideStep := if current = g.target then none else Timer.start 4 } } with voices := t.voices }) ∧
      ∀ v, t.voice v =
        if v ∈ (s.ctx i).noteVoices ∧ s.hasLegato v .glide = true ∧ (s.voice v).state = .sounding then
          { s.voice v with flags := { (s.voice v).flags with pitch := true } }
        else s.voice v

/-- A stopped timer has no expiry: the expiry of a timer that does not run changes nothing (R4). -/
def Obligations.StoppedTimersDoNotExpire : Prop :=
  ∀ s : State,
    (∀ i : Slot,
      ((s.ctx i).timers.settle = none → exec (.settleExpiry i) s = .next s) ∧
      ((s.ctx i).timers.attack = none → exec (.attackExpiry i) s = .next s) ∧
      ((s.ctx i).timers.guard = none → exec (.guardExpiry i) s = .next s) ∧
      ((s.ctx i).timers.silence = none → exec (.silenceExpiry i) s = .next s) ∧
      ((s.ctx i).timers.phrase = none → exec (.phraseExpiry i) s = .next s) ∧
      ((s.ctx i).timers.glideStep = none → exec (.glideStepExpiry i) s = .next s)) ∧
    (∀ v : VoiceId, (s.voice v).tailTimer = none → exec (.tailTimerExpiry v) s = .next s) ∧
    (s.quiesce.limit = none → exec .limitExpiry s = .next s)

/-! ### Tables read -/

/-- The first entry that matches decides: a pattern resolves to the sum of that entry's pitch when it lies from 0 to 127, and is
unmapped when it does not or when no entry matches (R27, R28). A performer's pattern is resolved in the map it has bound, with
its transpose (R29); the pitch of a new note is the one resolved, else the committed pitch, else the map's default note with the
transpose, limited to 0 to 127 (R30); and the first zone of its plan that covers a pitch is the pitch's zone, counted from 1
(R65). -/
def Obligations.FirstMatchDecides : Prop :=
  (∀ (m : FingerMap) (keys : KeySet) (octave transpose : Int),
    ((∀ e ∈ m.entries, keys &&& e.care ≠ e.keys) → m.resolve keys octave transpose = none) ∧
    ∀ (before after : List MapEntry) (e : MapEntry), m.entries = before ++ e :: after →
      (∀ x ∈ before, keys &&& x.care ≠ x.keys) → keys &&& e.care = e.keys →
      let sum : Int := m.baseNote + e.offset + (if e.octaveFixed then 0 else 12 * octave) + transpose
      (0 ≤ sum → sum ≤ 127 → m.resolve keys octave transpose = some sum.toNat) ∧
        (sum < 0 ∨ 127 < sum → m.resolve keys octave transpose = none) ∧
        (m.baseNote ≤ 127 → -48 ≤ e.offset → e.offset ≤ 48 → -3 ≤ octave → octave ≤ 3 → -24 ≤ transpose →
          transpose ≤ 24 → -108 ≤ sum ∧ sum ≤ 235)) ∧
  ∀ (s : State) (i : Slot),
    (∀ b, (s.ctx i).bindings.map.active = some b → s.activeMap i = (s.block b).fingerMap) ∧
    (∀ (m : FingerMap) (g : Gesture), s.activeMap i = some m →
      s.resolve i g = m.resolve g.keys g.octave (s.ctx i).settings.transpose ∧
      (∀ p, s.resolve i g = some p → s.choosePitch i g = p) ∧
      (∀ p, s.resolve i g = none → (s.ctx i).committedPitch = some p → s.choosePitch i g = p) ∧
      (s.resolve i g = none → (s.ctx i).committedPitch = none →
        (s.choosePitch i g : Int) = max 0 (min 127 (m.defaultNote + (s.ctx i).settings.transpose)))) ∧
    ∀ pitch : Nat,
      ((∀ z ∈ s.activePlan i, ¬ (z.low ≤ pitch ∧ pitch ≤ z.high)) → s.zoneFor i pitch = none) ∧
      ∀ (before after : List Zone) (z : Zone), s.activePlan i = before ++ z :: after →
        (∀ x ∈ before, ¬ (x.low ≤ pitch ∧ pitch ≤ x.high)) → z.low ≤ pitch → pitch ≤ z.high →
        s.zoneFor i pitch = some (before.length + 1, z)

/-- Linear interpolation: the first output at or below the first input, the last at or above the last, and between two adjacent
points the first output plus the increment rounded toward zero, which lies between the two outputs (R45). A gesture's note
level and an attack time's velocity are looked up so; its timbre and lip bend are products rounded toward zero; and a voice
sends its pitch from the glide, its transpose and the bend within 0 to 12700 cents, its scaled level and the timbre
(R54, R57, R58, R59, R73). -/
def Obligations.InterpolationFollowsPoints : Prop :=
  (∀ (points : List (Nat × Nat)) (x : Nat), points.Pairwise (fun p q => p.1 < q.1) →
    (∀ p, points.head? = some p → x ≤ p.1 → interpolate points x = p.2) ∧
    (∀ p, points.getLast? = some p → p.1 ≤ x → interpolate points x = p.2) ∧
    ∀ (before after : List (Nat × Nat)) (p q : Nat × Nat), points = before ++ p :: q :: after → p.1 ≤ x → x < q.1 →
      (interpolate points x : Int) =
          p.2 + (((x : Int) - p.1) * ((q.2 : Int) - p.2)).tdiv ((q.1 : Int) - p.1) ∧
        min p.2 q.2 ≤ interpolate points x ∧ interpolate points x ≤ max p.2 q.2) ∧
  (∀ (c : Curve) (g : Gesture) (attackTime : Nat),
    c.noteLevel g = interpolate c.breathPoints g.breath ∧
    c.velocity attackTime = interpolate c.velocityPoints attackTime ∧
    c.timbre g = min 127 (g.bite * c.biteDepth / 127) ∧
    c.lipBend g = (((g.lip : Int) - 128) * c.bendDepth).tdiv 128) ∧
  ∀ (s : State) (v : VoiceId) (i : Slot) (copy : Layer) (c : Curve) (g : Gesture), (s.voice v).owner = some i →
    (s.voice v).copy = some copy → s.activeCurve i = some c → (s.ctx i).lastFrame = some g →
    let x := s.voiceValues v
    let base : Int := if copy.legato = .glide then (s.ctx i).glide.current else (s.ctx i).glide.target
    (x.pitch : Int) = max 0 (min 12700 (base + 100 * copy.transpose + c.lipBend g)) ∧
      x.level = c.noteLevel g * copy.levelScale / 100 ∧ x.timbre = c.timbre g

/-- The checksum: every byte of the images laid end to end, multiplied by its number counted from 1, summed modulo 65536; a blank
position counts as zero bytes (R126). -/
def Obligations.ChecksumWeighsBytes : Prop :=
  ∀ (b : Block) (k : TableKind) (h : Image), b.kind = some k → b.header = some h →
    b.computedChecksum =
      (let bytes := (List.range (min 127 (entryCount h) + 1)).flatMap fun p =>
        match b.image p with
        | some x => x
        | none => List.replicate (k.imageLength p) 0
       ((List.range bytes.length).map fun n => (n + 1) * (bytes.getD n 0).toNat).sum) % 65536

/-! ### Voice Pool -/

/-- A retarget of the glide counter of a note, in its five clauses (R71). -/
def Obligations.RetargetFollowsRule : Prop :=
  ∀ (s : State) (i : Slot) (cents time : Nat),
    let c := s.ctx i
    let t := s.retargetGlide i cents time
    t = { s with contexts := s.contexts.set i { c with
        glide := (t.ctx i).glide
        timers := { c.timers with glideStep := (t.ctx i).timers.glideStep } }, voices := t.voices } ∧
    (t.ctx i).glide.target = cents ∧
    (c.glide.current = cents → (t.ctx i).glide = { c.glide with target := cents } ∧
      (t.ctx i).timers.glideStep = none ∧ t.voices = s.voices) ∧
    (c.glide.current ≠ cents →
      (t.ctx i).glide.direction = (if c.glide.current < cents then .up else .down) ∧
      (time = 0 → (t.ctx i).glide.current = cents ∧ (t.ctx i).timers.glideStep = none ∧
        ((t.ctx i).glide.step : Int) = |(cents : Int) - c.glide.current| ∧
        ∀ v, t.voice v =
          if v ∈ c.noteVoices ∧ s.hasLegato v .glide = true ∧ (s.voice v).state = .sounding then
            { s.voice v with flags := { (s.voice v).flags with pitch := true } }
          else s.voice v) ∧
      (time ≠ 0 → (t.ctx i).glide.current = c.glide.current ∧ t.voices = s.voices ∧
        (((t.ctx i).glide.step : Int) - 1) * time < |(cents : Int) - c.glide.current| ∧
        |(cents : Int) - c.glide.current| ≤ (t.ctx i).glide.step * time ∧
        (t.ctx i).timers.glideStep =
          (if c.timers.glideStep = none then Timer.start 4 else c.timers.glideStep)))

/-- An allocation request, step by step: the lowest-indexed FREE voice of the engine is granted with a START pending; with none
FREE, the RELEASING voice with the oldest release stamp is taken; with none RELEASING, the SOUNDING voice of another performer
of lower precedence is stolen, the lowest precedence first and then the oldest start stamp; each time the lowest index first
among equals. A voice taken has a RETAKE pending unless a START was, and no flag or tail timer, and the old owner's list loses
it. With none to take the layer is denied and LAYER DENIED is offered (R85, R86, R87, R89). -/
def Obligations.AllocationAnswers : Prop :=
  ∀ (s : State) (i : Slot) (index velocity : Nat) (layer : Layer),
    let answer := s.allocate i index layer velocity
    let at_ (v : VoiceId) : Prop := (engineOf v).val = layer.engine
    let precedence (o : Slot) : Nat := (s.ctx o).settings.precedence
    let robbable (v : VoiceId) (o : Slot) : Prop := at_ v ∧ (s.voice v).state = .sounding ∧
      (s.voice v).owner = some o ∧ o ≠ i ∧ precedence o < precedence i
    let taken (v : VoiceId) : Voice :=
      { s.voice v with
        state := .sounding
        owner := some i
        layer := some index
        copy := some layer
        startStamp := s.timebase
        pending :=
          match (s.voice v).pending with
          | some (.start _ _) => some (.start layer.program velocity)
          | _ => some (.retake layer.program velocity)
        flags := .clear
        tailTimer := none }
    s.onlySection answer.2 ∧
    (∀ v, at_ v → (s.voice v).state = .free → (∀ w, at_ w → w < v → (s.voice w).state ≠ .free) →
      answer = (some v, s.setVoice v { taken v with pending := some (.start layer.program velocity) })) ∧
    ((∀ v, at_ v → (s.voice v).state ≠ .free) →
      (∀ v, at_ v → (s.voice v).state = .releasing →
        (∀ w, at_ w → (s.voice w).state = .releasing →
          s.age (s.voice w).releaseStamp ≤ s.age (s.voice v).releaseStamp ∧
          (w < v → s.age (s.voice w).releaseStamp < s.age (s.voice v).releaseStamp)) →
        answer = (some v, s.setVoice v (taken v))) ∧
      ((∀ v, at_ v → (s.voice v).state ≠ .releasing) →
        (∀ v o, robbable v o →
          (∀ w p, robbable w p → precedence o ≤ precedence p ∧
            (precedence o = precedence p → s.age (s.voice w).startStamp ≤ s.age (s.voice v).startStamp ∧
              (w < v → s.age (s.voice w).startStamp < s.age (s.voice v).startStamp))) →
          answer = (some v, (s.setCtx o { s.ctx o with note := (s.ctx o).note.map fun n =>
            { n with voices := n.voices.map fun x => if x = some v then none else x } }).setVoice v (taken v))) ∧
        ((∀ v o, ¬ robbable v o) → answer = (none, s.offer (.layerDenied i layer.engine)))))

/-- A retake request on a SOUNDING voice: a pending START stays START with the new program and velocity, anything else becomes a
RETAKE with them; the rest of the record is unchanged (R83). An end request on a SOUNDING voice frees one whose START is still
pending, and leaves any other RELEASING with END pending and the release stamp taken; either way owner, layer, copy and flags
go (R82). -/
def Obligations.RetakeRequestKeepsStart : Prop :=
  ∀ (s : State) (v : VoiceId) (program velocity : Nat), (s.voice v).state = .sounding →
    ((∃ p q, (s.voice v).pending = some (.start p q)) →
      s.retakeVoice v program velocity =
        s.setVoice v { s.voice v with pending := some (.start program velocity) } ∧
      s.endVoice v = s.setVoice v { s.voice v with
        state := .free, owner := none, layer := none, copy := none, flags := .clear, pending := none }) ∧
    ((∀ p q, (s.voice v).pending ≠ some (.start p q)) →
      s.retakeVoice v program velocity =
        s.setVoice v { s.voice v with pending := some (.retake program velocity) } ∧
      s.endVoice v = s.setVoice v { s.voice v with
        state := .releasing, owner := none, layer := none, copy := none, flags := .clear,
        pending := some .ending, releaseStamp := s.timebase }) ∧
    s.endVoice v = s.setVoice v ((s.voice v).ended s.timebase)

/-- The tail timer's expiry frees a RELEASING voice and offers TAIL TIMEOUT (R95). -/
def Obligations.TailExpiryFreesVoice : Prop :=
  ∀ (s : State) (v : VoiceId), s.power = .running → (s.voice v).state = .releasing → (s.voice v).tailTimer ≠ none →
    exec (.tailTimerExpiry v) s = .next
      ((s.setVoice v { s.voice v with state := .free, tailTimer := none }).offer (.tailTimeout v))

/-- A TAIL DONE frees its voice when the tag is the record's, the record is RELEASING and nothing is pending; otherwise it is
ignored. An engine outside 0 to 3 or a voice number outside 0 to 23 is discarded by the link (R94, R158). -/
def Obligations.TailDoneFreesCurrentTail : Prop :=
  (∀ (s : State) (a : BitVec 4) (n tag : Byte), s.linesQuiet → 4 ≤ a.toNat ∨ 24 ≤ n.toNat →
    exec (.tailDone a (closed [kindByte 2 a.toNat, n, tag]).tail) s = .next (s.heard .voice)) ∧
  ∀ (s : State) (e : EngineId) (n : Fin 24) (tag : Byte), s.linesQuiet →
    let v := voiceAt e n
    let current : Prop := (s.voice v).tag = tag ∧ (s.voice v).state = .releasing ∧ (s.voice v).pending = none
    (current → exec (.tailDone (BitVec.ofNat 4 e.val) (engineFrame 2 e [byte n.val, tag]).tail) s =
      .next ((s.heard .voice).setVoice v { s.voice v with state := .free, tailTimer := none })) ∧
    (¬ current → exec (.tailDone (BitVec.ofNat 4 e.val) (engineFrame 2 e [byte n.val, tag]).tail) s =
      .next (s.heard .voice))

/-- A HELLO: the engine is present with the announced voice count, its records are FREE below the count and DISABLED from it on with
nothing owned, owed or running and tag 0, the notes lose its voices, ENGINE JOINED is offered, and the other engines' records
are unchanged. During a quiesce the engine leaves its sets; when no other engine is still waited for, the quiesce ends CLEAN in
the same event, with the reset's effects and the reply of the RESET, and the waiting list is tested (R97, R176, R177, R178). -/
def Obligations.HelloResetsEngine : Prop :=
  ∀ (s : State) (e : EngineId) (n : Nat), s.linesQuiet → 1 ≤ n → n ≤ 24 →
    let hello := exec (.hello (BitVec.ofNat 4 e.val) (engineFrame 1 e [byte n]).tail) s
    let joined (t : State) : Prop :=
      t = { s.heard .voice with
        contexts := t.contexts
        voices := t.voices
        engines := s.engines.set e
          { s.engine e with present := true, voiceCount := some n, held := false, pendingControl := none }
        mgmt := s.mgmt.offer (.engineJoined e)
        quiesce := if s.quiesce.phase = .idle then s.quiesce else
          { s.quiesce with
            waited := EngineSet.erase s.quiesce.waited e
            sent := EngineSet.erase s.quiesce.sent e
            acknowledged := EngineSet.erase s.quiesce.acknowledged e } } ∧
      (∀ i, t.ctx i = { s.ctx i with note := (s.ctx i).note.map fun r => { r with
        voices := r.voices.map fun o => o.filter fun v => engineOf v ≠ e } }) ∧
      ∀ v, t.voice v =
        if engineOf v = e then
          { s.voice v with
            state := if voiceNumber v < n then .free else .disabled
            owner := none
            layer := none
            copy := none
            tag := 0
            pending := none
            flags := .clear
            tailTimer := none }
        else s.voice v
    (s.quiesce.phase = .idle ∨ (∃ x, x ≠ e ∧ EngineSet.has s.quiesce.unacknowledged x = true) →
      ∃ t, hello = .next t ∧ joined t) ∧
    ∀ c earlier kind, s.quiesce.phase = .quiescing → s.quiesce.kind = some kind →
      (∀ x, x ≠ e → EngineSet.has s.quiesce.unacknowledged x = false) → s.mgmt.inProgress = some ⟨c, .reset⟩ →
      s.mgmt.replies = earlier ++ [⟨c.tag, c.code, none⟩] → (∀ r ∈ earlier, r.result ≠ none) →
      ∃ w t, joined w ∧ w.resetBy t kind 0 ∧ hello = exec .commandStart (t.finished earlier c [0, 0]) ∧
        (s.mgmt.waiting = [] → hello = .next (t.finished earlier c [0, 0]))

/-- HOLD and GO set and clear the held field of a present engine and are ignored from an engine that is not present (R98). -/
def Obligations.HoldAndGoSetHeld : Prop :=
  ∀ (s : State) (e : EngineId), s.linesQuiet →
    ((s.engine e).present = true →
      exec (.hold (BitVec.ofNat 4 e.val) (engineFrame 3 e []).tail) s =
        .next ((s.heard .voice).setEngine e { s.engine e with held := true }) ∧
      exec (.go (BitVec.ofNat 4 e.val) (engineFrame 4 e []).tail) s =
        .next ((s.heard .voice).setEngine e { s.engine e with held := false })) ∧
    ((s.engine e).present = false →
      exec (.hold (BitVec.ofNat 4 e.val) (engineFrame 3 e []).tail) s = .next (s.heard .voice) ∧
      exec (.go (BitVec.ofNat 4 e.val) (engineFrame 4 e []).tail) s = .next (s.heard .voice))

/-! ### Transmit Arbiter -/

/-- With CONTROL express and the broadcast HUSH flag set, the next selection takes the broadcast HUSH, two bytes to address 15,
and clears the flag; no rotation point moves. A selection that chooses an engine's QUIESCE or HUSH sends it to the engine's
address and leaves nothing pending for it, and an engine of the waited set whose QUIESCE is taken during a quiesce joins the
sent set (R110, R114, R115, R176, R179). -/
def Obligations.BroadcastHushGoesFirst : Prop :=
  (∀ s : State, s.power = .running → s.arbiter.transmitter = none → s.arbiter.express = some .control →
    s.broadcastHush = true →
    exec .selection s = .next { s with
      broadcastHush := false
      arbiter := { s.arbiter with transmitter := some ⟨.control, [0x8F, 0x71], 5⟩ } }) ∧
  ∀ (s : State) (e : EngineId) (f : Control) (band : Option Band), s.power = .running →
    s.arbiter.transmitter = none → s.restartWf = true → s.choice = some ⟨.control, .engine e f, band⟩ →
    ∃ a, s.arbiter.serves a ⟨.control, .engine e f, band⟩
        (closed [kindByte (match f with | .quiesce => 7 | .hush => 8) e.val]) ∧
      exec .selection s = .next { s.setEngine e { s.engine e with pendingControl := none } with
        arbiter := a
        quiesce :=
          if f = .quiesce ∧ s.quiesce.phase = .quiescing ∧ EngineSet.has s.quiesce.waited e = true then
            { s.quiesce with sent := EngineSet.insert s.quiesce.sent e }
          else s.quiesce }

/-- A selection that chooses a voice sends its frame and changes its record and the arbiter alone. In the START class it sends
START or RETAKE with the advanced tag, the pending program and velocity and the values standing, and leaves nothing pending and
no flag; an END starts the tail timer with the engine's tail limit; a PITCH, LEVEL or TIMBRE frame sends the value standing and
clears its flag. The rotation points of the band and of the class move to it (R81, R91, R112, R113, R115). -/
def Obligations.SelectionStrikesVoice : Prop :=
  ∀ (s : State) (cls : ServiceClass) (v : VoiceId) (band : Option Band), s.power = .running →
    s.arbiter.transmitter = none → s.choice = some ⟨cls, .voice v, band⟩ →
    let r := s.voice v
    let x := s.voiceValues v
    let frame (kind : Nat) (body : List Byte) : List Byte :=
      closed ([kindByte kind (engineOf v).val, byte (voiceNumber v)] ++ body)
    let sends (bytes : List Byte) (after : Voice) : Prop :=
      ∃ a, s.arbiter.serves a ⟨cls, .voice v, band⟩ bytes ∧
        exec .selection s = .next { s.setVoice v after with arbiter := a }
    let strike (kind program velocity : Nat) : Prop :=
      sends (frame kind ([r.tag + 1, byte program] ++ be16 x.pitch ++ [byte velocity] ++ be16 x.level ++
          [byte x.timbre]))
        { r with tag := r.tag + 1, pending := none, flags := .clear }
    (∀ p q, cls = .start → r.pending = some (.start p q) → strike 1 p q) ∧
    (∀ p q, cls = .start → r.pending = some (.retake p q) → strike 2 p q) ∧
    (cls = .ending → sends (frame 3 [r.tag])
      { r with pending := none, tailTimer := Timer.start (64 * (s.engine (engineOf v)).tailLimit) }) ∧
    (cls = .pitch → sends (frame 4 (be16 x.pitch)) { r with flags := { r.flags with pitch := false } }) ∧
    (cls = .level → sends (frame 5 (be16 x.level)) { r with flags := { r.flags with level := false } }) ∧
    (cls = .timbre → sends (frame 6 (be16 x.timbre)) { r with flags := { r.flags with timbre := false } })

/-- A selection chooses nothing exactly when no class has an eligible item. Otherwise it chooses the express class while that has
one, and else the first class after the rotation point of the highest band that has one; in a voice class the first eligible
record after the class's rotation point, in CONTROL the broadcast and then the lowest engine with a frame pending, in REPLY and
NOTICE the head of the queue (R90, R106 to R108, R110 to R114). -/
def Obligations.SelectionFollowsPriority : Prop :=
  ∀ s : State,
    (s.choice = none ↔ ∀ c, ¬ s.classEligible c) ∧
    ∀ ch : Choice, s.choice = some ch →
      s.classEligible ch.cls ∧
      (∀ c, s.arbiter.express = some c → s.classEligible c → ch.cls = c ∧ ch.band = none) ∧
      (ch.band = none → s.arbiter.express = some ch.cls) ∧
      (∀ b, ch.band = some b → s.arbiter.bands.get ch.cls = b ∧ s.arbiter.express ≠ some ch.cls ∧
        let behind (c : ServiceClass) : Nat := cyclicDistance 8 ((s.arbiter.bandPoints.get b).map (·.number)) c.number
        ∀ c, s.arbiter.express ≠ some c → s.classEligible c →
          b.code ≤ (s.arbiter.bands.get c).code ∧ (s.arbiter.bands.get c = b → behind ch.cls ≤ behind c)) ∧
      match ch.cls with
      | .control =>
        (s.broadcastHush = true → ch.item = .broadcast) ∧
        (s.broadcastHush = false → ∃ e f, ch.item = .engine e f ∧ (s.engine e).pendingControl = some f ∧
          ∀ x, x < e → (s.engine x).pendingControl = none)
      | .reply => ch.item = .reply
      | .notice => ch.item = .notice
      | _ =>
        let behind (v : VoiceId) : Nat := cyclicDistance 96 ((s.arbiter.voicePoints.get ch.cls).map (·.val)) v.val
        ∃ v, ch.item = .voice v ∧ s.owes ch.cls v ∧ ∀ w, s.owes ch.cls w → behind v ≤ behind w

/-! ### Management Unit -/

/-- A COMMAND frame whose code is that of a command does exactly what the command's row does, whether it starts at once, waits or
is lost. It joins the waiting list behind a command in progress or full reply entries, and sets the overrun flag when two
wait. One that starts at once and is refused changes nothing in any block: it leaves its reply, which carries and clears the
overrun flag; an unknown code is refused with UNKNOWN COMMAND (R157, R163, R166 to R169). -/
def Obligations.CommandFrameArrives : Prop :=
  ∀ (s : State) (tag code : Byte) (params : List Byte), s.linesQuiet → params.length ≤ 40 →
    (∀ row, Cmd.row ⟨tag, code, params⟩ = some row →
      exec (frameCommand tag code params) s = exec row (s.heard .gesture)) ∧
    (s.mgmt.waiting.length < 2 → s.mgmt.inProgress ≠ none ∨ 2 ≤ s.mgmt.replies.length →
      exec (frameCommand tag code params) s = .next { s.heard .gesture with
        mgmt := { s.mgmt with waiting := s.mgmt.waiting ++ [⟨tag, code, params⟩] } }) ∧
    (2 ≤ s.mgmt.waiting.length →
      exec (frameCommand tag code params) s = .next { s.heard .gesture with
        mgmt := { s.mgmt with overrun := true } }) ∧
    (∀ cause data, s.consoleReady → s.carryOut ⟨tag, code, params⟩ = .refused cause data →
      exec (frameCommand tag code params) s = .next ((s.heard .gesture).answered tag code (some cause) data)) ∧
    (code ∉ ([0x10, 0x11, 0x12, 0x13, 0x20, 0x30, 0x31, 0x32, 0x40, 0x41, 0x50, 0x51, 0x52, 0x53, 0x54, 0x55, 0x56,
        0x57, 0x58, 0x60, 0x70] : List Byte) → s.carryOut ⟨tag, code, params⟩ = .refused .unknownCommand [])

/-- COMMAND_START takes the head waiting command, while nothing is in progress and an entry is free: it does what the command's
row does when it arrives with none waiting, or refuses a code that no row has, and then tests the commands behind it in the same
way; otherwise it changes nothing. A selection that takes a REPLY sends it, frees its entry, and tests the waiting list in the
same way (R115, R167, R169). A command that waits while it could start stands in no state that the model reaches from one
within its laws (log entry 11). -/
def Obligations.CommandStartTakesHead : Prop :=
  let waiting (s : State) (l : List Cmd) : State := { s with mgmt := { s.mgmt with waiting := l } }
  (∀ (s : State) (c : Cmd) (row : Instr), s.power = .running → s.mgmt.waiting = [c] → c.params.length ≤ 40 →
    c.row = some row → exec .commandStart s = exec row (waiting s [])) ∧
  (∀ (s : State) (c : Cmd) (rest : List Cmd), s.power = .running → s.mgmt.waiting = c :: rest → c.params.length ≤ 40 →
    s.mgmt.inProgress = none → s.mgmt.replies.length < 2 → (∀ e ∈ s.mgmt.replies, e.result ≠ none) →
    (∀ row, c.row = some row → ∃ t, exec row (waiting s []) = .next t ∧
      exec .commandStart s = exec .commandStart (waiting t rest)) ∧
    (c.row = none →
      let t := (waiting s rest).answered c.tag c.code (some .unknownCommand) []
      exec .commandStart s = exec .commandStart t ∧ (rest = [] → exec .commandStart s = .next t))) ∧
  (∀ s : State, s.mgmt.waiting = [] ∨ s.mgmt.inProgress ≠ none ∨ 2 ≤ s.mgmt.replies.length →
    exec .commandStart s = .next s) ∧
  ∀ (s : State) (tag code : Byte) (r : Built) (rest : List ReplyEntry) (band : Option Band), s.power = .running →
    s.arbiter.transmitter = none → s.choice = some ⟨.reply, .reply, band⟩ →
    s.mgmt.replies = ⟨tag, code, some r⟩ :: rest →
    ∃ a, s.arbiter.serves a ⟨.reply, .reply, band⟩ (closed ([0x9E, tag, code, if r.cause = none then 0 else 1,
        match r.cause with | some c => c.code | none => 0, if r.overrun = true then 1 else 0,
        byte r.data.length] ++ r.data)) ∧
      let taken : State := { s with arbiter := a, mgmt := { s.mgmt with replies := rest } }
      exec .selection s = exec .commandStart taken ∧ (s.mgmt.waiting = [] → exec .selection s = .next taken)

/-- NOTICE MASK SET replaces the mask, and the mask governs every offer: a notice of a masked kind is discarded, one of an allowed
kind is queued when fewer than 8 are queued and otherwise discarded with the notices-dropped flag set. A hard reset and a FULL
reset put the mask at 4Fh. A selection that takes a NOTICE sends the head of the queue with the notices-dropped flag, which it
clears (R115, R170, R171). -/
def Obligations.NoticeMaskGovernsOffers : Prop :=
  (∀ (s : State) (tag : Byte) (params : List Byte), s.consoleReady → params.length ≤ 40 →
    (params.length ≠ 1 → exec (.noticeMaskSet tag params) s = .next (s.answered tag 0x60 (some .badLength) [])) ∧
    (∀ m : Byte, params = [m] → m.getLsbD 7 = true →
      exec (.noticeMaskSet tag params) s = .next (s.answered tag 0x60 (some .badValue) [])) ∧
    (∀ m : Byte, params = [m] → m.getLsbD 7 = false →
      exec (.noticeMaskSet tag params) s =
        .next (State.answered { s with mgmt := { s.mgmt with mask := m } } tag 0x60 none [m]))) ∧
  (∀ (s : State) (n : Notice),
    (s.mgmt.mask.getLsbD (n.code - 1) = false → s.offer n = s) ∧
    (s.mgmt.mask.getLsbD (n.code - 1) = true → s.mgmt.notices.length < 8 →
      s.offer n = { s with mgmt := { s.mgmt with notices := s.mgmt.notices ++ [n] } }) ∧
    (s.mgmt.mask.getLsbD (n.code - 1) = true → 8 ≤ s.mgmt.notices.length →
      s.offer n = { s with mgmt := { s.mgmt with noticesDropped := true } })) ∧
  (∀ s : State, (s.cleared .inReset).mgmt.mask = 0x4F ∧ s.fullEffects.mgmt.mask = 0x4F) ∧
  ∀ (s : State) (n : Notice) (rest : List Notice) (band : Option Band), s.power = .running →
    s.arbiter.transmitter = none → s.choice = some ⟨.notice, .notice, band⟩ → s.mgmt.notices = n :: rest →
    ∃ a, s.arbiter.serves a ⟨.notice, .notice, band⟩ (closed ([0xAE, byte n.code,
        if s.mgmt.noticesDropped = true then 1 else 0, byte n.subject.length] ++ n.subject)) ∧
      exec .selection s = .next { s with
        arbiter := a, mgmt := { s.mgmt with notices := rest, noticesDropped := false } }

/-! ### Console commands of the performers -/

/-- PERFORMER ENABLE (R14). -/
def Obligations.PerformerEnable : Prop :=
  ∀ (s : State) (tag x : Byte), s.consoleReady →
    (8 ≤ x.toNat → exec (.performerEnable tag [x]) s = .next (s.answered tag 0x11 (some .badValue) [])) ∧
    ∀ i : Slot, x = byte i.val →
      exec (.performerEnable tag [x]) s =
        .next ((s.answered tag 0x11 none [x]).setCtx i { s.ctx i with enabled := true })

/-- PERFORMER DISABLE: a slot out of range is refused; an enabled ABSENT performer is only disabled, a disabled one is unchanged, a
present one is left ABSENT with its note ended, its settings kept and its staged AT REST bindings applied; the reply gives the
state before, and no other notice is offered (R11, R13). -/
def Obligations.PerformerDisable : Prop :=
  ∀ (s : State) (tag : Byte), s.consoleReady →
    (∀ x : Byte, 8 ≤ x.toNat →
      exec (.performerDisable tag [x]) s = .next (s.answered tag 0x12 (some .badValue) [])) ∧
    ∀ i : Slot,
      let reply := s.answered tag 0x12 none [byte i.val, (s.ctx i).state.code]
      ((s.ctx i).state = .absent ∨ (s.ctx i).enabled = false →
        exec (.performerDisable tag [byte i.val]) s = .next (reply.setCtx i { s.ctx i with enabled := false })) ∧
      ((s.ctx i).state ≠ .absent → (s.ctx i).enabled = true →
        ∃ t, exec (.performerDisable tag [byte i.val]) s = .next t ∧ s.voicesEnded t i ∧ s.otherContexts t i ∧
          reply.onlySection t ∧ t.mgmt.notices = (s.applyAll i .atRest).mgmt.notices ∧
          t.mgmt.noticesDropped = (s.applyAll i .atRest).mgmt.noticesDropped ∧
          t.ctx i = { s.ctx i with
            enabled := false
            state := .absent
            timers := .stopped
            onset := none
            note := none
            candidate := false
            deferredOnset := false
            lastFrame := none
            committedPitch := none
            bindings := (s.ctx i).bindings.appliedAll .atRest })

/-- PERFORMER SET: a length that is not a slot and one to seven whole pairs, a slot, number or value out of range and a number given
twice are refused; otherwise every named setting is set in one event and all seven are reported (R16, R18). -/
def Obligations.PerformerSet : Prop :=
  ∀ (s : State) (tag : Byte) (params : List Byte), s.consoleReady → params.length ≤ 40 →
    (params.length % 2 = 0 ∨ params.length < 3 ∨ 15 < params.length →
      exec (.performerSet tag params) s = .next (s.answered tag 0x10 (some .badLength) [])) ∧
    ∀ (x : Byte) (pairs : List (Byte × Byte)), params = x :: pairs.flatMap (fun p => [p.1, p.2]) →
      1 ≤ pairs.length → pairs.length ≤ 7 →
      let inRange (p : Byte × Byte) : Prop :=
        (p.1 = 1 ∧ 1 ≤ p.2.toNat ∧ p.2.toNat ≤ 4) ∨ (p.1 = 2 ∧ -24 ≤ p.2.toInt ∧ p.2.toInt ≤ 24) ∨ p.1 = 3 ∨ p.1 = 4 ∨
          p.1 = 5 ∨ (p.1 = 6 ∧ 1 ≤ p.2.toNat) ∨ (p.1 = 7 ∧ 1 ≤ p.2.toNat)
      (8 ≤ x.toNat ∨ (∃ p ∈ pairs, ¬ inRange p) ∨ ¬ (pairs.map Prod.fst).Nodup →
        exec (.performerSet tag params) s = .next (s.answered tag 0x10 (some .badValue) [])) ∧
      ∀ i : Slot, x = byte i.val → (∀ p ∈ pairs, inRange p) → (pairs.map Prod.fst).Nodup →
        ∃ settings : Settings,
          exec (.performerSet tag params) s =
            .next ((s.answered tag 0x10 none (x :: settings.bytes)).setCtx i { s.ctx i with settings := settings }) ∧
          let value (number : Byte) (old : Nat) : Nat :=
            match pairs.find? fun p => p.1 == number with
            | some p => p.2.toNat
            | none => old
          settings.precedence = value 1 (s.ctx i).settings.precedence ∧
          settings.settleTime = value 3 (s.ctx i).settings.settleTime ∧
          settings.attackWindow = value 4 (s.ctx i).settings.attackWindow ∧
          settings.guardTime = value 5 (s.ctx i).settings.guardTime ∧
          settings.silenceLimit = value 6 (s.ctx i).settings.silenceLimit ∧
          settings.phraseGap = value 7 (s.ctx i).settings.phraseGap ∧
          settings.transpose =
            match pairs.find? fun p => p.1 == 2 with
            | some p => p.2.toInt
            | none => (s.ctx i).settings.transpose

/-- BIND to a VALID block of the kind, or staged to "none": NOW makes the block active and drops what was staged; AT REST acts at
once in READY and ABSENT and is staged in the other states; AT PHRASE is staged, and in READY starts a stopped phrase timer
(R143, R144, R147 to R149). Refused are, in this order, a wrong length, a slot, kind, timing or target out of range, a block
that is not VALID and a block of another kind (R143). The bytes of the reply after the kind follow the model's reading of R163:
FFh and timing 0 for nothing staged, then 1 for applied and 0 for staged (log entry 16). -/
def Obligations.BindSetsAndStages : Prop :=
  (∀ (s : State) (tag : Byte) (i : Slot) (k : TableKind) (target : Option BlockId), s.consoleReady →
    (∀ b, target = some b → (s.block b).state = .valid ∧ (s.block b).kind = some k) →
    let old := (s.ctx i).bindings.get k
    let head : List Byte := [byte i.val, k.code]
    let shown : Byte := blockByte target
    (target ≠ none →
      exec (.bind tag [byte i.val, k.code, shown, 0]) s =
        .next ((s.answered tag 0x20 none (head ++ [shown, 0xFF, 0, 1])).setCtx i
          ((s.ctx i).setBinding k ⟨target, none⟩))) ∧
    ((s.ctx i).state = .absent ∨ (s.ctx i).state = .ready →
      exec (.bind tag [byte i.val, k.code, shown, 1]) s =
        .next ((s.answered tag 0x20 none (head ++ [shown, 0xFF, 0, 1])).setCtx i
          ((s.ctx i).setBinding k ⟨target, none⟩))) ∧
    ((s.ctx i).state ≠ .absent → (s.ctx i).state ≠ .ready →
      exec (.bind tag [byte i.val, k.code, shown, 1]) s =
        .next ((s.answered tag 0x20 none (head ++ [blockByte old.active, shown, 1, 0])).setCtx i
          ((s.ctx i).setBinding k ⟨old.active, some ⟨target, .atRest⟩⟩))) ∧
    exec (.bind tag [byte i.val, k.code, shown, 2]) s =
        .next ((s.answered tag 0x20 none (head ++ [blockByte old.active, shown, 2, 0])).setCtx i
          (let c := (s.ctx i).setBinding k ⟨old.active, some ⟨target, .atPhrase⟩⟩
           if c.state = .ready ∧ c.timers.phrase = none then
             { c with timers := { c.timers with phrase := Timer.start (64 * c.settings.phraseGap) } }
           else c))) ∧
  ∀ (s : State) (tag : Byte) (params : List Byte), s.consoleReady → params.length ≤ 40 →
    let refused (cause : Cause) (data : List Byte) : Prop :=
      exec (.bind tag params) s = .next (s.answered tag 0x20 (some cause) data)
    (params.length ≠ 4 → refused .badLength []) ∧
    (∀ x kind target timing : Byte, params = [x, kind, target, timing] →
      8 ≤ x.toNat ∨ kind = 0 ∨ 3 < kind.toNat ∨ 2 < timing.toNat ∨ (24 ≤ target.toNat ∧ target ≠ 0xFF) →
      refused .badValue []) ∧
    ∀ (i : Slot) (k : TableKind) (b : BlockId) (timing : Byte), params = [byte i.val, k.code, byte b.val, timing] →
      timing.toNat ≤ 2 →
      ((s.block b).state ≠ .valid →
        refused .notValid [if (s.block b).op = none then (s.block b).state.code else 4]) ∧
      ((s.block b).state = .valid → (s.block b).kind ≠ some k → refused .wrongKind [optKindByte (s.block b).kind])

/-- BIND NOW "none": in READY and ABSENT, or when nothing of the kind is active, only the bindings of the kind go; in a state with
an onset or a note that ends it, without the guard, and the performer is READY with its committed pitch and the staged AT REST
bindings of the other kinds applied (R145). The reply bytes FFh, FFh, 0 and 1 follow the model's reading of R163
(log entry 16). -/
def Obligations.BindNowNone : Prop :=
  ∀ (s : State) (tag : Byte) (i : Slot) (k : TableKind), s.consoleReady →
    let reply := s.answered tag 0x20 none [byte i.val, k.code, 0xFF, 0xFF, 0, 1]
    let unbound := s.setCtx i ((s.ctx i).setBinding k ⟨none, none⟩)
    ((s.ctx i).state.active = false ∨ ((s.ctx i).bindings.get k).active = none →
      exec (.bind tag [byte i.val, k.code, 0xFF, 0]) s =
        .next (reply.setCtx i ((s.ctx i).setBinding k ⟨none, none⟩))) ∧
    ((s.ctx i).state.active = true → ((s.ctx i).bindings.get k).active ≠ none →
      ∃ t, exec (.bind tag [byte i.val, k.code, 0xFF, 0]) s = .next t ∧ s.voicesEnded t i ∧ s.otherContexts t i ∧
        reply.onlySection t ∧ t.mgmt.notices = (unbound.applyAll i .atRest).mgmt.notices ∧
        t.mgmt.noticesDropped = (unbound.applyAll i .atRest).mgmt.noticesDropped ∧
        t.ctx i = { s.ctx i with
          state := .ready
          onset := none
          note := none
          candidate := false
          bindings := (unbound.ctx i).bindings.appliedAll .atRest
          timers := { (s.ctx i).timers with
            settle := none
            attack := none
            glideStep := none
            phrase := Timer.start (64 * (s.ctx i).settings.phraseGap) } })

/-! ### Console commands of the pool, the arbiter and the reads -/

/-- ENGINE SET (R100). -/
def Obligations.EngineSet : Prop :=
  ∀ (s : State) (tag : Byte) (params : List Byte), s.consoleReady → params.length ≤ 40 →
    (params.length ≠ 2 → exec (.engineSet tag params) s = .next (s.answered tag 0x30 (some .badLength) [])) ∧
    (∀ x limit : Byte, params = [x, limit] → 4 ≤ x.toNat ∨ limit = 0 →
      exec (.engineSet tag params) s = .next (s.answered tag 0x30 (some .badValue) [])) ∧
    ∀ (e : EngineId) (limit : Byte), params = [byte e.val, limit] → limit ≠ 0 →
      exec (.engineSet tag params) s =
        .next ((s.answered tag 0x30 none [byte e.val, limit]).setEngine e
          { s.engine e with tailLimit := limit.toNat })

/-- ARBITER SET (R118). -/
def Obligations.ArbiterSet : Prop :=
  ∀ (s : State) (tag : Byte) (params : List Byte), s.consoleReady → params.length ≤ 40 →
    (params.length ≠ 9 → exec (.arbiterSet tag params) s = .next (s.answered tag 0x40 (some .badLength) [])) ∧
    (∀ (x : Byte) (bands : List Byte), params = x :: bands → bands.length = 8 →
      8 < x.toNat ∨ (∃ b ∈ bands, b.toNat < 1 ∨ 3 < b.toNat) →
      exec (.arbiterSet tag params) s = .next (s.answered tag 0x40 (some .badValue) [])) ∧
    ∀ (express : Option ServiceClass) (m : BandMap),
      params = classByte express :: serviceClasses.map (fun c => (m.get c).code) →
      exec (.arbiterSet tag params) s =
        .next ((s.answered tag 0x40 none params).setArbiter { s.arbiter with express := express, bands := m })

/-- The reads change nothing but the reply queue: each is answered DONE with its report, or refused, first for its length, then for
a slot, engine, voice or block out of range, then for the state of its block, and TABLE READ last for a run that does not fit
(R19, R101, R102, R119, R131, R132, R133, R135, R168). That TABLE READ judges its number of positions, 1 to 8, before the state
of the block is the model's reading of R133 and R168 (log entry 15). -/
def Obligations.ReadsChangeNothing : Prop :=
  ∀ (s : State) (tag : Byte), s.consoleReady →
    let done (code : Byte) (data : List Byte) : Result := .next (s.answered tag code none data)
    let no (code : Byte) (cause : Cause) (data : List Byte) : Result := .next (s.answered tag code (some cause) data)
    (∀ i : Slot, exec (.performerRead tag [byte i.val]) s = done 0x13 ((s.ctx i).report (byte i.val))) ∧
    (∀ e : EngineId, exec (.engineRead tag [byte e.val]) s = done 0x31 (s.engineReport e)) ∧
    (∀ v : VoiceId, exec (.voiceRead tag [byte v.val]) s = done 0x32 ((s.voice v).report (byte v.val))) ∧
    exec (.arbiterRead tag []) s = done 0x41 s.arbiterReport ∧
    (∀ b : BlockId,
      let r := s.block b
      let blocked (p : Prop) : Prop := r.op ≠ none ∨ p
      let shown : Byte := if r.op = none then r.state.code else 4
      exec (.blockRead tag [byte b.val]) s =
        done 0x57 ([byte b.val, r.state.code, optKindByte r.kind, yesNo r.locked] ++ be16 r.eraseCount ++
          [yesNo (s.bound b)]) ∧
      (¬ blocked (r.state = .incomplete) →
        exec (.tableBlankCheck tag [byte b.val]) s =
          done 0x54 [byte b.val, optByte (firstPosition 0 127 r.written)]) ∧
      (blocked (r.state = .incomplete) →
        exec (.tableBlankCheck tag [byte b.val]) s = no 0x54 .blockState [shown]) ∧
      (∀ hi lo : Byte,
        (¬ blocked (r.state = .blank ∨ r.state = .incomplete) →
          exec (.tableVerify tag [byte b.val, hi, lo]) s =
            done 0x53 ([byte b.val, if r.computedChecksum = 256 * hi.toNat + lo.toNat then 0 else 1] ++
              be16 r.computedChecksum)) ∧
        (blocked (r.state = .blank ∨ r.state = .incomplete) →
          exec (.tableVerify tag [byte b.val, hi, lo]) s = no 0x53 .blockState [shown])) ∧
      ∀ first count : Byte,
        let counted : Prop := 1 ≤ count.toNat ∧ count.toNat ≤ 8
        let fits : Prop := first.toNat + count.toNat ≤ 128 ∧ r.readSize first.toNat count.toNat ≤ 40
        (¬ counted → exec (.tableRead tag [byte b.val, first, count]) s = no 0x55 .badValue []) ∧
        (counted → blocked (r.state = .incomplete) →
          exec (.tableRead tag [byte b.val, first, count]) s = no 0x55 .blockState [shown]) ∧
        (counted → ¬ blocked (r.state = .incomplete) → ¬ fits →
          exec (.tableRead tag [byte b.val, first, count]) s = no 0x55 .badValue []) ∧
        (counted → ¬ blocked (r.state = .incomplete) → fits →
          exec (.tableRead tag [byte b.val, first, count]) s =
            done 0x55 ([byte b.val, first, count] ++
              (List.range' first.toNat count.toNat).flatMap r.readBytes))) ∧
    (∀ params : List Byte, params.length ≤ 40 →
      (params.length ≠ 1 → exec (.performerRead tag params) s = no 0x13 .badLength [] ∧
        exec (.engineRead tag params) s = no 0x31 .badLength [] ∧
        exec (.voiceRead tag params) s = no 0x32 .badLength [] ∧
        exec (.tableBlankCheck tag params) s = no 0x54 .badLength [] ∧
        exec (.blockRead tag params) s = no 0x57 .badLength []) ∧
      (params ≠ [] → exec (.arbiterRead tag params) s = no 0x41 .badLength []) ∧
      (params.length ≠ 3 → exec (.tableVerify tag params) s = no 0x53 .badLength [] ∧
        exec (.tableRead tag params) s = no 0x55 .badLength [])) ∧
    ∀ x y z : Byte,
      (8 ≤ x.toNat → exec (.performerRead tag [x]) s = no 0x13 .badValue []) ∧
      (4 ≤ x.toNat → exec (.engineRead tag [x]) s = no 0x31 .badValue []) ∧
      (96 ≤ x.toNat → exec (.voiceRead tag [x]) s = no 0x32 .badValue []) ∧
      (24 ≤ x.toNat → exec (.tableBlankCheck tag [x]) s = no 0x54 .badValue [] ∧
        exec (.blockRead tag [x]) s = no 0x57 .badValue [] ∧
        exec (.tableVerify tag [x, y, z]) s = no 0x53 .badValue [] ∧
        exec (.tableRead tag [x, y, z]) s = no 0x55 .badValue [])

/-! ### Table Memory -/

/-- The store commands judge a block by their tests in order, and one that passes begins its operation: the mark is set, an erasure
is counted, the command is in progress with its entry held (R127 to R130, R134, R168; the time is a free value, log
entry 5). -/
def Obligations.StoreCommandsBegin : Prop :=
  ∀ (s : State) (tag : Byte), s.consoleReady →
    let no (code : Byte) (cause : Cause) (data : List Byte) : Result := .next (s.answered tag code (some cause) data)
    (∀ b : BlockId,
      let r := s.block b
      exec (.tableErase tag [byte b.val]) s =
        (if r.op.isSome then no 0x50 .blockState [4]
        else if s.bound b then no 0x50 .bound []
        else if r.locked then no 0x50 .locked []
        else if 1000 ≤ r.eraseCount then no 0x50 .worn []
        else .next ((s.storeBegun b .erase).holding tag 0x50 [byte b.val] (.erase b))) ∧
      exec (.tableLock tag [byte b.val]) s =
        (if r.op.isSome then no 0x56 .blockState [4]
        else if r.locked then no 0x56 .locked []
        else if r.state ≠ .valid then no 0x56 .blockState [r.state.code]
        else .next ((s.storeBegun b .lock).holding tag 0x56 [byte b.val] (.lock b))) ∧
      (∀ (first : Byte) (bytes : List Byte), bytes.length ≤ 38 →
        let n := first.toNat
        let write := exec (.tableWrite tag (byte b.val :: first :: bytes)) s
        write =
          (if r.op.isSome then no 0x51 .blockState [4]
          else if s.bound b then no 0x51 .bound []
          else if r.locked then no 0x51 .locked []
          else if r.state = .valid ∨ r.state = .incomplete then no 0x51 .blockState [r.state.code]
          else if 127 < n then no 0x51 .badValue []
          else if bytes = [] then no 0x51 .badLength []
          else if r.state = .blank ∧ n ≠ 0 then no 0x51 .noHeader []
          else if n = 0 ∧ tableKindOf (byteAt bytes 0) = none then no 0x51 .badValue []
          else
            let kind := if r.state = .blank then tableKindOf (byteAt bytes 0) else r.kind
            match kind.bind fun k => cutImages k 8 n bytes with
            | none => no 0x51 .badLength []
            | some images =>
              if 128 < n + images.length then no 0x51 .badValue []
              else
                match firstPosition n (n + images.length - 1) r.written with
                | some p => no 0x51 .alreadyWritten [byte p]
                | none =>
                  .next ((s.storeBegun b .write).holding tag 0x51 (byte b.val :: first :: bytes) (.write b n images)))) ∧
      ∀ hi lo : Byte,
        let commit := exec (.tableCommit tag [byte b.val, hi, lo]) s
        (r.op ≠ none ∨ r.state ≠ .opened →
          commit = no 0x52 .blockState [if r.op = none then r.state.code else 4]) ∧
        ∀ k h, r.op = none → r.state = .opened → r.kind = some k → r.header = some h →
          commit =
            (if headerOk k h = false then no 0x52 .badEntry [0]
            else
              match firstPosition 1 (entryCount h) fun p => !r.written p with
              | some p => no 0x52 .missingEntry [byte p]
              | none =>
                match firstPosition (entryCount h + 1) 127 r.written with
                | some p => no 0x52 .badEntry [byte p]
                | none =>
                  match firstPosition 1 (entryCount h) fun p => !r.entryOk k h p with
                  | some p => no 0x52 .badEntry [byte p]
                  | none =>
                    if r.computedChecksum ≠ 256 * hi.toNat + lo.toNat then
                      no 0x52 .checksumMismatch (be16 r.computedChecksum)
                    else .next ((s.storeBegun b .commit).holding tag 0x52 [byte b.val, hi, lo] (.commit b)))) ∧
    (∀ params : List Byte, params.length ≤ 40 →
      (params.length ≠ 1 → exec (.tableErase tag params) s = no 0x50 .badLength [] ∧
        exec (.tableLock tag params) s = no 0x56 .badLength []) ∧
      (params.length < 2 → exec (.tableWrite tag params) s = no 0x51 .badLength []) ∧
      (params.length ≠ 3 → exec (.tableCommit tag params) s = no 0x52 .badLength [])) ∧
    ∀ (x y z : Byte) (rest : List Byte), 24 ≤ x.toNat → rest.length ≤ 38 →
      exec (.tableErase tag [x]) s = no 0x50 .badValue [] ∧ exec (.tableLock tag [x]) s = no 0x56 .badValue [] ∧
        exec (.tableWrite tag (x :: y :: rest)) s = no 0x51 .badValue [] ∧
        exec (.tableCommit tag [x, y, z]) s = no 0x52 .badValue []

/-- STORE CLEAR: refused for any parameter, and BOUND with the lowest bound block; otherwise it is in progress and reaches block 0,
whose lock it removes: not worn, the block begins its erasure; worn, it is to be passed over at once with no operation in
flight (R136, R139; the time of the erasure is a free value, log entry 5; the passing over as an event, log entry 25). -/
def Obligations.StoreClearBegins : Prop :=
  ∀ (s : State) (tag : Byte), s.consoleReady →
    (∀ params : List Byte, params.length ≤ 40 → params ≠ [] →
      exec (.storeClear tag params) s = .next (s.answered tag 0x58 (some .badLength) [])) ∧
    (∀ b, s.bound b = true → (∀ x, x < b → s.bound x = false) →
      exec (.storeClear tag []) s = .next (s.answered tag 0x58 (some .bound) [byte b.val])) ∧
    ((∀ x, s.bound x = false) →
      ∃ t work, s.clearAt 0 0 0 t work ∧ exec (.storeClear tag []) s = .next (t.holding tag 0x58 [] work))

/-- The completions of a store operation make its effects, end it and answer its command, and the waiting list is then tested
within the same event, as COMMAND_START tests it; with nothing waiting nothing else changes (R127 to R130, R134, R167). -/
def Obligations.StoreOperationsComplete : Prop :=
  ∀ (s : State) (c : Cmd) (earlier : List ReplyEntry) (b : BlockId), s.power = .running →
    s.mgmt.replies = earlier ++ [⟨c.tag, c.code, none⟩] → (∀ e ∈ earlier, e.result ≠ none) →
    let finish (r : Block) (data : List Byte) : State :=
      { s with
        blocks := s.blocks.set b r
        storeTimer := none
        mgmt := { s.mgmt with
          inProgress := none
          replies := earlier ++ [⟨c.tag, c.code, some ⟨none, s.mgmt.overrun, data⟩⟩]
          overrun := false } }
    let ends (completion : Instr) (t : State) : Prop :=
      exec completion s = exec .commandStart t ∧ (s.mgmt.waiting = [] → exec completion s = .next t)
    (s.mgmt.inProgress = some ⟨c, .erase b⟩ →
      ends .erasureCompletion (finish
        { s.block b with state := .blank, kind := none, cells := [], op := none }
        (byte b.val :: be16 (s.block b).eraseCount))) ∧
    (∀ first images, s.mgmt.inProgress = some ⟨c, .write b first images⟩ →
      ∃ cells kind, ends .writeCompletion (finish
          { s.block b with state := .opened, kind := kind, cells := cells, op := none }
          [byte b.val, byte first, byte images.length]) ∧
        (first ≠ 0 → kind = (s.block b).kind) ∧
        (∀ h rest, first = 0 → images = h :: rest → kind = tableKindOf (byteAt h 0)) ∧
        (cellsWf (s.block b).cells = true → ∀ p, cells.lookup p =
          if first ≤ p ∧ p < first + images.length then images[p - first]? else (s.block b).cells.lookup p)) ∧
    (s.mgmt.inProgress = some ⟨c, .commit b⟩ →
      ends .commitCompletion (finish { s.block b with state := .valid, op := none }
        ([byte b.val, optKindByte (s.block b).kind, byte (s.block b).lastPosition] ++
          be16 (s.block b).computedChecksum))) ∧
    (s.mgmt.inProgress = some ⟨c, .lock b⟩ →
      ends .lockCompletion (finish { s.block b with locked := true, op := none } [byte b.val]))

/-- STORE CLEAR goes on when the erasure of its block completes, which leaves the block BLANK and counts it, and when it has passed
over a worn block, which joins the set it reports. It reaches the next block, worn or not, or after block 23 answers with the
number erased and the worn blocks (R136, R139; the time of an erasure is a free value, log entry 5; the passing over as an event,
log entry 25). -/
def Obligations.StoreClearGoesOn : Prop :=
  ∀ (s : State) (c : Cmd) (b : BlockId) (erased : Nat) (worn : BlockSet), s.power = .running →
    let goesOn (s' : State) (erased : Nat) (worn : BlockSet) : Prop :=
      (∀ next : BlockId, next.val = b.val + 1 → ∃ t work, s'.clearAt next erased worn t work ∧
        exec .storeClearBlockCompletion s =
          .next { t with mgmt := { t.mgmt with inProgress := some ⟨c, work⟩ } }) ∧
      ∀ earlier, b.val = 23 → s.mgmt.replies = earlier ++ [⟨c.tag, c.code, none⟩] →
        (∀ e ∈ earlier, e.result ≠ none) →
        let answered := s'.finished earlier c (byte erased :: be24 worn)
        exec .storeClearBlockCompletion s = exec .commandStart answered ∧
          (s.mgmt.waiting = [] → exec .storeClearBlockCompletion s = .next answered)
    (s.mgmt.inProgress = some ⟨c, .storeClear b erased worn⟩ →
      goesOn { s.setBlock b { s.block b with state := .blank, kind := none, cells := [], op := none } with
        storeTimer := none } (erased + 1) worn) ∧
    (s.mgmt.inProgress = some ⟨c, .passOver b erased worn⟩ →
      ∃ passed : BlockSet, (∀ x : BlockId, passed.getLsbD x.val = (worn.getLsbD x.val || decide (x = b))) ∧
        goesOn { s with storeTimer := none } erased passed)

/-! ### Quiesce and restart -/

/-- RESET. A length other than one or two, a kind byte other than 1 and 2, and a limit of 0 are refused. An accepted one, whose
limit is 63 when omitted, begins its quiesce: the record is QUIESCING with the present engines waited for and the limit timer
running, each of them has QUIESCE pending, every note and onset is given up without the guard, and the command is in progress.
With no engine present the quiesce ends CLEAN in the same event, with the reset's effects and the reply
(R174, R175, R177, R178). -/
def Obligations.ResetBeginsQuiesce : Prop :=
  ∀ (s : State) (tag : Byte) (params : List Byte), s.consoleReady → params.length ≤ 40 →
    (params.length ≠ 1 → params.length ≠ 2 →
      exec (.reset tag params) s = .next (s.answered tag 0x70 (some .badLength) [])) ∧
    (∀ x limit : Byte, params = [x] ∨ params = [x, limit] → x ≠ 1 → x ≠ 2 →
      exec (.reset tag params) s = .next (s.answered tag 0x70 (some .badValue) [])) ∧
    (∀ x : Byte, params = [x, 0] → exec (.reset tag params) s = .next (s.answered tag 0x70 (some .badValue) [])) ∧
    ∀ (kind : ResetKind) (limit : Byte),
      let code : Byte := match kind with | .sectionOnly => 1 | .full => 2
      (params = [code] ∧ limit = 63) ∨ (params = [code, limit] ∧ limit ≠ 0) →
      let active (i : Slot) : Bool := (s.ctx i).state.active
      let begun (t : State) : Prop :=
        t = { s.holding tag 0x70 params .reset with
          contexts := t.contexts
          voices := t.voices
          engines := t.engines
          quiesce := ⟨.quiescing, some kind, s.presentEngines, 0, 0, Timer.start (16 * limit.toNat)⟩
          mgmt := { (s.holding tag 0x70 params .reset).mgmt with
            notices := (s.atRestApplied active).mgmt.notices
            noticesDropped := (s.atRestApplied active).mgmt.noticesDropped } } ∧
        (∀ x, EngineSet.has s.presentEngines x = (s.engine x).present ∧
          t.engine x = if (s.engine x).present = true then { s.engine x with pendingControl := some .quiesce }
            else s.engine x) ∧
        (∀ v, t.voice v = if ∃ i, active i = true ∧ v ∈ (s.ctx i).noteVoices then
          (s.voice v).ended s.timebase else s.voice v) ∧
        ∀ i, (active i = false → t.ctx i = s.ctx i) ∧
          (active i = true → t.ctx i = { s.ctx i with
            state := .ready
            onset := none
            note := none
            candidate := false
            bindings := (s.ctx i).bindings.appliedAll .atRest
            timers := { (s.ctx i).timers with
              settle := none
              attack := none
              glideStep := none
              phrase := Timer.start (64 * (s.ctx i).settings.phraseGap) } })
      ((∃ e, (s.engine e).present = true) → ∃ t, exec (.reset tag params) s = .next t ∧ begun t) ∧
      ((∀ e, (s.engine e).present = false) → ∃ w t, begun w ∧ w.resetBy t kind 0 ∧
        exec (.reset tag params) s = .next (t.finished s.mgmt.replies ⟨tag, 0x70, params⟩ [0, 0]))

/-- A QUIESCE ACK counts when its engine is waited for, has been sent its QUIESCE and has not answered; while another engine is
still waited for nothing else changes, and the last one ends the quiesce CLEAN, with the reset's effects and the reply of the
RESET, after which the waiting list is tested. In every other case during the quiesce, and outside one, an ACK is ignored
(R176, R177, R178). -/
def Obligations.QuiesceAckCounts : Prop :=
  ∀ (s : State) (e : EngineId), s.linesQuiet → s.restartWf = true →
    let ack := exec (.quiesceAck (BitVec.ofNat 4 e.val) (engineFrame 5 e []).tail) s
    let counts : Prop := s.quiesce.phase = .quiescing ∧ EngineSet.has s.quiesce.waited e = true ∧
      EngineSet.has s.quiesce.sent e = true ∧ EngineSet.has s.quiesce.acknowledged e = false
    (¬ counts → ack = .next (s.heard .voice)) ∧
    (counts → (∃ x, x ≠ e ∧ EngineSet.has s.quiesce.unacknowledged x = true) →
      ack = .next { s.heard .voice with
        quiesce := { s.quiesce with acknowledged := EngineSet.insert s.quiesce.acknowledged e } }) ∧
    (counts → (∀ x, x ≠ e → EngineSet.has s.quiesce.unacknowledged x = false) →
      ∀ c earlier kind, s.quiesce.kind = some kind → s.mgmt.inProgress = some ⟨c, .reset⟩ →
        s.mgmt.replies = earlier ++ [⟨c.tag, c.code, none⟩] → (∀ r ∈ earlier, r.result ≠ none) →
        ∃ t, (s.heard .voice).resetBy t kind 0 ∧ ack = exec .commandStart (t.finished earlier c [0, 0]) ∧
          (s.mgmt.waiting = [] → ack = .next (t.finished earlier c [0, 0])))

/-- The limit expiry ends a quiesce FORCED: the engines that have not answered are hushed, the reset's effects are taken, the record
is IDLE, and the reply names the engines; then the waiting list is tested (R177, R178). -/
def Obligations.LimitExpiryForces : Prop :=
  ∀ (s : State) (c : Cmd) (earlier : List ReplyEntry) (kind : ResetKind), s.power = .running →
    s.quiesce.phase = .quiescing → s.quiesce.kind = some kind → s.quiesce.limit ≠ none →
    s.mgmt.inProgress = some ⟨c, .reset⟩ → s.mgmt.replies = earlier ++ [⟨c.tag, c.code, none⟩] →
    (∀ r ∈ earlier, r.result ≠ none) →
    let hushed := s.quiesce.unacknowledged
    (∀ e, EngineSet.has hushed e = (EngineSet.has s.quiesce.waited e && !EngineSet.has s.quiesce.acknowledged e)) ∧
    ∃ t, s.resetBy t kind hushed ∧
      exec .limitExpiry s = exec .commandStart (t.finished earlier c [1, hushed.setWidth 8]) ∧
      (s.mgmt.waiting = [] → exec .limitExpiry s = .next (t.finished earlier c [1, hushed.setWidth 8]))

/-- A hard reset by the line held for 10 µs or by power-on, and a loss of power, put every volatile record at its hard reset value
and keep Table Memory with its marks; a shorter assertion has no effect (R20, R103, R120, R139, R165, R172, R173, R179; the
loss of power is the model's choice, log entry 7). -/
def Obligations.HardResetClearsVolatileState : Prop :=
  ∀ s : State,
    let cleared (p : Power) : State :=
      { State.reset with
        broadcastHush := false
        blocks := s.blocks
        power := p
        freeCount := s.freeCount
        pending := s.pending }
    (∀ d, d < 10 → exec (.hardReset (.line d)) s = .next s) ∧
    (∀ d, 10 ≤ d → s.power ≠ .off → exec (.hardReset (.line d)) s = .next (cleared .inReset)) ∧
    exec (.hardReset .powerOn) s = .next (cleared .inReset) ∧ exec .powerLoss s = .next (cleared .off)

/-- Start-up after a hard reset: the timebase reads 0, the broadcast HUSH flag is set, each block with its mark set becomes
INCOMPLETE, unlocked and without a kind, and the notice for them, if any, is offered (R139, R140, R179). Start-up from a part
without power is that of a hard reset, and a part that runs has nothing to start (the model's choice, log entry 6). -/
def Obligations.StartUpMarksInterruptedBlocks : Prop :=
  (∀ s : State, s.power = .inReset →
    ∃ t, exec .startUp s = .next t ∧
      t = { s with
        timebase := 0
        broadcastHush := true
        power := .running
        blocks := t.blocks
        mgmt := t.mgmt } ∧
      (∀ b, t.block b =
        if (s.block b).op = none then s.block b
        else { s.block b with state := .incomplete, kind := none, locked := false, op := none }) ∧
      ((∀ b, (s.block b).op = none) → t.mgmt = s.mgmt) ∧
      ∀ b, (s.block b).op ≠ none →
        ∃ blocks : BlockSet, (∀ x, blocks.getLsbD x.val = (s.block x).op.isSome) ∧
          t.mgmt = s.mgmt.offer (.storeInterrupted blocks)) ∧
  ∀ s : State, (s.power = .running → exec .startUp s = .next s) ∧
    ∀ u, s.power = .off → exec (.hardReset .powerOn) s = .next u → exec .startUp s = exec .startUp u

end
end

