-- ==== Sys2Proof/Laws/State.lean ====
section
/-! SUPPORT. The named updates of the state, field by field, and what is read after them: no later proof unfolds a record
update. -/

namespace Sys2Proof.Machine

/-- While the part runs, what is done only then is done (R165, R179). -/
theorem State.whenRunning_running (s t : State) (h : s.power = .running) : s.whenRunning t = t := by
  simp only [State.whenRunning, h]

/-! ### Fields after an update -/

@[simp] theorem State.setCtx_contexts (s : State) (i : Slot) (c : Context) : (s.setCtx i c).contexts = s.contexts.set i c := rfl
@[simp] theorem State.setCtx_voices (s : State) (i : Slot) (c : Context) : (s.setCtx i c).voices = s.voices := rfl
@[simp] theorem State.setCtx_engines (s : State) (i : Slot) (c : Context) : (s.setCtx i c).engines = s.engines := rfl
@[simp] theorem State.setCtx_broadcastHush (s : State) (i : Slot) (c : Context) : (s.setCtx i c).broadcastHush = s.broadcastHush := rfl
@[simp] theorem State.setCtx_arbiter (s : State) (i : Slot) (c : Context) : (s.setCtx i c).arbiter = s.arbiter := rfl
@[simp] theorem State.setCtx_blocks (s : State) (i : Slot) (c : Context) : (s.setCtx i c).blocks = s.blocks := rfl
@[simp] theorem State.setCtx_storeTimer (s : State) (i : Slot) (c : Context) : (s.setCtx i c).storeTimer = s.storeTimer := rfl
@[simp] theorem State.setCtx_mgmt (s : State) (i : Slot) (c : Context) : (s.setCtx i c).mgmt = s.mgmt := rfl
@[simp] theorem State.setCtx_quiesce (s : State) (i : Slot) (c : Context) : (s.setCtx i c).quiesce = s.quiesce := rfl
@[simp] theorem State.setCtx_gestureRx (s : State) (i : Slot) (c : Context) : (s.setCtx i c).gestureRx = s.gestureRx := rfl
@[simp] theorem State.setCtx_voiceRx (s : State) (i : Slot) (c : Context) : (s.setCtx i c).voiceRx = s.voiceRx := rfl
@[simp] theorem State.setCtx_power (s : State) (i : Slot) (c : Context) : (s.setCtx i c).power = s.power := rfl
@[simp] theorem State.setCtx_timebase (s : State) (i : Slot) (c : Context) : (s.setCtx i c).timebase = s.timebase := rfl
@[simp] theorem State.setCtx_phase (s : State) (i : Slot) (c : Context) : (s.setCtx i c).phase = s.phase := rfl
@[simp] theorem State.setCtx_freeCount (s : State) (i : Slot) (c : Context) : (s.setCtx i c).freeCount = s.freeCount := rfl
@[simp] theorem State.setCtx_pending (s : State) (i : Slot) (c : Context) : (s.setCtx i c).pending = s.pending := rfl

@[simp] theorem State.setVoice_contexts (s : State) (v : VoiceId) (r : Voice) : (s.setVoice v r).contexts = s.contexts := rfl
@[simp] theorem State.setVoice_voices (s : State) (v : VoiceId) (r : Voice) : (s.setVoice v r).voices = s.voices.set v r := rfl
@[simp] theorem State.setVoice_engines (s : State) (v : VoiceId) (r : Voice) : (s.setVoice v r).engines = s.engines := rfl
@[simp] theorem State.setVoice_broadcastHush (s : State) (v : VoiceId) (r : Voice) : (s.setVoice v r).broadcastHush = s.broadcastHush := rfl
@[simp] theorem State.setVoice_arbiter (s : State) (v : VoiceId) (r : Voice) : (s.setVoice v r).arbiter = s.arbiter := rfl
@[simp] theorem State.setVoice_blocks (s : State) (v : VoiceId) (r : Voice) : (s.setVoice v r).blocks = s.blocks := rfl
@[simp] theorem State.setVoice_storeTimer (s : State) (v : VoiceId) (r : Voice) : (s.setVoice v r).storeTimer = s.storeTimer := rfl
@[simp] theorem State.setVoice_mgmt (s : State) (v : VoiceId) (r : Voice) : (s.setVoice v r).mgmt = s.mgmt := rfl
@[simp] theorem State.setVoice_quiesce (s : State) (v : VoiceId) (r : Voice) : (s.setVoice v r).quiesce = s.quiesce := rfl
@[simp] theorem State.setVoice_gestureRx (s : State) (v : VoiceId) (r : Voice) : (s.setVoice v r).gestureRx = s.gestureRx := rfl
@[simp] theorem State.setVoice_voiceRx (s : State) (v : VoiceId) (r : Voice) : (s.setVoice v r).voiceRx = s.voiceRx := rfl
@[simp] theorem State.setVoice_power (s : State) (v : VoiceId) (r : Voice) : (s.setVoice v r).power = s.power := rfl
@[simp] theorem State.setVoice_timebase (s : State) (v : VoiceId) (r : Voice) : (s.setVoice v r).timebase = s.timebase := rfl
@[simp] theorem State.setVoice_phase (s : State) (v : VoiceId) (r : Voice) : (s.setVoice v r).phase = s.phase := rfl
@[simp] theorem State.setVoice_freeCount (s : State) (v : VoiceId) (r : Voice) : (s.setVoice v r).freeCount = s.freeCount := rfl
@[simp] theorem State.setVoice_pending (s : State) (v : VoiceId) (r : Voice) : (s.setVoice v r).pending = s.pending := rfl

@[simp] theorem State.setEngine_contexts (s : State) (e : EngineId) (r : Engine) : (s.setEngine e r).contexts = s.contexts := rfl
@[simp] theorem State.setEngine_voices (s : State) (e : EngineId) (r : Engine) : (s.setEngine e r).voices = s.voices := rfl
@[simp] theorem State.setEngine_engines (s : State) (e : EngineId) (r : Engine) : (s.setEngine e r).engines = s.engines.set e r := rfl
@[simp] theorem State.setEngine_broadcastHush (s : State) (e : EngineId) (r : Engine) : (s.setEngine e r).broadcastHush = s.broadcastHush := rfl
@[simp] theorem State.setEngine_arbiter (s : State) (e : EngineId) (r : Engine) : (s.setEngine e r).arbiter = s.arbiter := rfl
@[simp] theorem State.setEngine_blocks (s : State) (e : EngineId) (r : Engine) : (s.setEngine e r).blocks = s.blocks := rfl
@[simp] theorem State.setEngine_storeTimer (s : State) (e : EngineId) (r : Engine) : (s.setEngine e r).storeTimer = s.storeTimer := rfl
@[simp] theorem State.setEngine_mgmt (s : State) (e : EngineId) (r : Engine) : (s.setEngine e r).mgmt = s.mgmt := rfl
@[simp] theorem State.setEngine_quiesce (s : State) (e : EngineId) (r : Engine) : (s.setEngine e r).quiesce = s.quiesce := rfl
@[simp] theorem State.setEngine_gestureRx (s : State) (e : EngineId) (r : Engine) : (s.setEngine e r).gestureRx = s.gestureRx := rfl
@[simp] theorem State.setEngine_voiceRx (s : State) (e : EngineId) (r : Engine) : (s.setEngine e r).voiceRx = s.voiceRx := rfl
@[simp] theorem State.setEngine_power (s : State) (e : EngineId) (r : Engine) : (s.setEngine e r).power = s.power := rfl
@[simp] theorem State.setEngine_timebase (s : State) (e : EngineId) (r : Engine) : (s.setEngine e r).timebase = s.timebase := rfl
@[simp] theorem State.setEngine_phase (s : State) (e : EngineId) (r : Engine) : (s.setEngine e r).phase = s.phase := rfl
@[simp] theorem State.setEngine_freeCount (s : State) (e : EngineId) (r : Engine) : (s.setEngine e r).freeCount = s.freeCount := rfl
@[simp] theorem State.setEngine_pending (s : State) (e : EngineId) (r : Engine) : (s.setEngine e r).pending = s.pending := rfl

@[simp] theorem State.setBlock_contexts (s : State) (b : BlockId) (r : Block) : (s.setBlock b r).contexts = s.contexts := rfl
@[simp] theorem State.setBlock_voices (s : State) (b : BlockId) (r : Block) : (s.setBlock b r).voices = s.voices := rfl
@[simp] theorem State.setBlock_engines (s : State) (b : BlockId) (r : Block) : (s.setBlock b r).engines = s.engines := rfl
@[simp] theorem State.setBlock_broadcastHush (s : State) (b : BlockId) (r : Block) : (s.setBlock b r).broadcastHush = s.broadcastHush := rfl
@[simp] theorem State.setBlock_arbiter (s : State) (b : BlockId) (r : Block) : (s.setBlock b r).arbiter = s.arbiter := rfl
@[simp] theorem State.setBlock_blocks (s : State) (b : BlockId) (r : Block) : (s.setBlock b r).blocks = s.blocks.set b r := rfl
@[simp] theorem State.setBlock_storeTimer (s : State) (b : BlockId) (r : Block) : (s.setBlock b r).storeTimer = s.storeTimer := rfl
@[simp] theorem State.setBlock_mgmt (s : State) (b : BlockId) (r : Block) : (s.setBlock b r).mgmt = s.mgmt := rfl
@[simp] theorem State.setBlock_quiesce (s : State) (b : BlockId) (r : Block) : (s.setBlock b r).quiesce = s.quiesce := rfl
@[simp] theorem State.setBlock_gestureRx (s : State) (b : BlockId) (r : Block) : (s.setBlock b r).gestureRx = s.gestureRx := rfl
@[simp] theorem State.setBlock_voiceRx (s : State) (b : BlockId) (r : Block) : (s.setBlock b r).voiceRx = s.voiceRx := rfl
@[simp] theorem State.setBlock_power (s : State) (b : BlockId) (r : Block) : (s.setBlock b r).power = s.power := rfl
@[simp] theorem State.setBlock_timebase (s : State) (b : BlockId) (r : Block) : (s.setBlock b r).timebase = s.timebase := rfl
@[simp] theorem State.setBlock_phase (s : State) (b : BlockId) (r : Block) : (s.setBlock b r).phase = s.phase := rfl
@[simp] theorem State.setBlock_freeCount (s : State) (b : BlockId) (r : Block) : (s.setBlock b r).freeCount = s.freeCount := rfl
@[simp] theorem State.setBlock_pending (s : State) (b : BlockId) (r : Block) : (s.setBlock b r).pending = s.pending := rfl

@[simp] theorem State.setMgmt_contexts (s : State) (m : Management) : (s.setMgmt m).contexts = s.contexts := rfl
@[simp] theorem State.setMgmt_voices (s : State) (m : Management) : (s.setMgmt m).voices = s.voices := rfl
@[simp] theorem State.setMgmt_engines (s : State) (m : Management) : (s.setMgmt m).engines = s.engines := rfl
@[simp] theorem State.setMgmt_broadcastHush (s : State) (m : Management) : (s.setMgmt m).broadcastHush = s.broadcastHush := rfl
@[simp] theorem State.setMgmt_arbiter (s : State) (m : Management) : (s.setMgmt m).arbiter = s.arbiter := rfl
@[simp] theorem State.setMgmt_blocks (s : State) (m : Management) : (s.setMgmt m).blocks = s.blocks := rfl
@[simp] theorem State.setMgmt_storeTimer (s : State) (m : Management) : (s.setMgmt m).storeTimer = s.storeTimer := rfl
@[simp] theorem State.setMgmt_mgmt (s : State) (m : Management) : (s.setMgmt m).mgmt = m := rfl
@[simp] theorem State.setMgmt_quiesce (s : State) (m : Management) : (s.setMgmt m).quiesce = s.quiesce := rfl
@[simp] theorem State.setMgmt_gestureRx (s : State) (m : Management) : (s.setMgmt m).gestureRx = s.gestureRx := rfl
@[simp] theorem State.setMgmt_voiceRx (s : State) (m : Management) : (s.setMgmt m).voiceRx = s.voiceRx := rfl
@[simp] theorem State.setMgmt_power (s : State) (m : Management) : (s.setMgmt m).power = s.power := rfl
@[simp] theorem State.setMgmt_timebase (s : State) (m : Management) : (s.setMgmt m).timebase = s.timebase := rfl
@[simp] theorem State.setMgmt_phase (s : State) (m : Management) : (s.setMgmt m).phase = s.phase := rfl
@[simp] theorem State.setMgmt_freeCount (s : State) (m : Management) : (s.setMgmt m).freeCount = s.freeCount := rfl
@[simp] theorem State.setMgmt_pending (s : State) (m : Management) : (s.setMgmt m).pending = s.pending := rfl

@[simp] theorem State.setArbiter_contexts (s : State) (a : Arbiter) : (s.setArbiter a).contexts = s.contexts := rfl
@[simp] theorem State.setArbiter_voices (s : State) (a : Arbiter) : (s.setArbiter a).voices = s.voices := rfl
@[simp] theorem State.setArbiter_engines (s : State) (a : Arbiter) : (s.setArbiter a).engines = s.engines := rfl
@[simp] theorem State.setArbiter_broadcastHush (s : State) (a : Arbiter) : (s.setArbiter a).broadcastHush = s.broadcastHush := rfl
@[simp] theorem State.setArbiter_arbiter (s : State) (a : Arbiter) : (s.setArbiter a).arbiter = a := rfl
@[simp] theorem State.setArbiter_blocks (s : State) (a : Arbiter) : (s.setArbiter a).blocks = s.blocks := rfl
@[simp] theorem State.setArbiter_storeTimer (s : State) (a : Arbiter) : (s.setArbiter a).storeTimer = s.storeTimer := rfl
@[simp] theorem State.setArbiter_mgmt (s : State) (a : Arbiter) : (s.setArbiter a).mgmt = s.mgmt := rfl
@[simp] theorem State.setArbiter_quiesce (s : State) (a : Arbiter) : (s.setArbiter a).quiesce = s.quiesce := rfl
@[simp] theorem State.setArbiter_gestureRx (s : State) (a : Arbiter) : (s.setArbiter a).gestureRx = s.gestureRx := rfl
@[simp] theorem State.setArbiter_voiceRx (s : State) (a : Arbiter) : (s.setArbiter a).voiceRx = s.voiceRx := rfl
@[simp] theorem State.setArbiter_power (s : State) (a : Arbiter) : (s.setArbiter a).power = s.power := rfl
@[simp] theorem State.setArbiter_timebase (s : State) (a : Arbiter) : (s.setArbiter a).timebase = s.timebase := rfl
@[simp] theorem State.setArbiter_phase (s : State) (a : Arbiter) : (s.setArbiter a).phase = s.phase := rfl
@[simp] theorem State.setArbiter_freeCount (s : State) (a : Arbiter) : (s.setArbiter a).freeCount = s.freeCount := rfl
@[simp] theorem State.setArbiter_pending (s : State) (a : Arbiter) : (s.setArbiter a).pending = s.pending := rfl

@[simp] theorem State.setQuiesce_contexts (s : State) (q : Quiesce) : (s.setQuiesce q).contexts = s.contexts := rfl
@[simp] theorem State.setQuiesce_voices (s : State) (q : Quiesce) : (s.setQuiesce q).voices = s.voices := rfl
@[simp] theorem State.setQuiesce_engines (s : State) (q : Quiesce) : (s.setQuiesce q).engines = s.engines := rfl
@[simp] theorem State.setQuiesce_broadcastHush (s : State) (q : Quiesce) : (s.setQuiesce q).broadcastHush = s.broadcastHush := rfl
@[simp] theorem State.setQuiesce_arbiter (s : State) (q : Quiesce) : (s.setQuiesce q).arbiter = s.arbiter := rfl
@[simp] theorem State.setQuiesce_blocks (s : State) (q : Quiesce) : (s.setQuiesce q).blocks = s.blocks := rfl
@[simp] theorem State.setQuiesce_storeTimer (s : State) (q : Quiesce) : (s.setQuiesce q).storeTimer = s.storeTimer := rfl
@[simp] theorem State.setQuiesce_mgmt (s : State) (q : Quiesce) : (s.setQuiesce q).mgmt = s.mgmt := rfl
@[simp] theorem State.setQuiesce_quiesce (s : State) (q : Quiesce) : (s.setQuiesce q).quiesce = q := rfl
@[simp] theorem State.setQuiesce_gestureRx (s : State) (q : Quiesce) : (s.setQuiesce q).gestureRx = s.gestureRx := rfl
@[simp] theorem State.setQuiesce_voiceRx (s : State) (q : Quiesce) : (s.setQuiesce q).voiceRx = s.voiceRx := rfl
@[simp] theorem State.setQuiesce_power (s : State) (q : Quiesce) : (s.setQuiesce q).power = s.power := rfl
@[simp] theorem State.setQuiesce_timebase (s : State) (q : Quiesce) : (s.setQuiesce q).timebase = s.timebase := rfl
@[simp] theorem State.setQuiesce_phase (s : State) (q : Quiesce) : (s.setQuiesce q).phase = s.phase := rfl
@[simp] theorem State.setQuiesce_freeCount (s : State) (q : Quiesce) : (s.setQuiesce q).freeCount = s.freeCount := rfl
@[simp] theorem State.setQuiesce_pending (s : State) (q : Quiesce) : (s.setQuiesce q).pending = s.pending := rfl

@[simp] theorem State.mapContexts_contexts (s : State) (f : Slot → Context → Context) : (s.mapContexts f).contexts = vec fun i => f i (s.ctx i) := rfl
@[simp] theorem State.mapContexts_voices (s : State) (f : Slot → Context → Context) : (s.mapContexts f).voices = s.voices := rfl
@[simp] theorem State.mapContexts_engines (s : State) (f : Slot → Context → Context) : (s.mapContexts f).engines = s.engines := rfl
@[simp] theorem State.mapContexts_broadcastHush (s : State) (f : Slot → Context → Context) : (s.mapContexts f).broadcastHush = s.broadcastHush := rfl
@[simp] theorem State.mapContexts_arbiter (s : State) (f : Slot → Context → Context) : (s.mapContexts f).arbiter = s.arbiter := rfl
@[simp] theorem State.mapContexts_blocks (s : State) (f : Slot → Context → Context) : (s.mapContexts f).blocks = s.blocks := rfl
@[simp] theorem State.mapContexts_storeTimer (s : State) (f : Slot → Context → Context) : (s.mapContexts f).storeTimer = s.storeTimer := rfl
@[simp] theorem State.mapContexts_mgmt (s : State) (f : Slot → Context → Context) : (s.mapContexts f).mgmt = s.mgmt := rfl
@[simp] theorem State.mapContexts_quiesce (s : State) (f : Slot → Context → Context) : (s.mapContexts f).quiesce = s.quiesce := rfl
@[simp] theorem State.mapContexts_gestureRx (s : State) (f : Slot → Context → Context) : (s.mapContexts f).gestureRx = s.gestureRx := rfl
@[simp] theorem State.mapContexts_voiceRx (s : State) (f : Slot → Context → Context) : (s.mapContexts f).voiceRx = s.voiceRx := rfl
@[simp] theorem State.mapContexts_power (s : State) (f : Slot → Context → Context) : (s.mapContexts f).power = s.power := rfl
@[simp] theorem State.mapContexts_timebase (s : State) (f : Slot → Context → Context) : (s.mapContexts f).timebase = s.timebase := rfl
@[simp] theorem State.mapContexts_phase (s : State) (f : Slot → Context → Context) : (s.mapContexts f).phase = s.phase := rfl
@[simp] theorem State.mapContexts_freeCount (s : State) (f : Slot → Context → Context) : (s.mapContexts f).freeCount = s.freeCount := rfl
@[simp] theorem State.mapContexts_pending (s : State) (f : Slot → Context → Context) : (s.mapContexts f).pending = s.pending := rfl

@[simp] theorem State.mapVoices_contexts (s : State) (f : VoiceId → Voice → Voice) : (s.mapVoices f).contexts = s.contexts := rfl
@[simp] theorem State.mapVoices_voices (s : State) (f : VoiceId → Voice → Voice) : (s.mapVoices f).voices = vec fun v => f v (s.voice v) := rfl
@[simp] theorem State.mapVoices_engines (s : State) (f : VoiceId → Voice → Voice) : (s.mapVoices f).engines = s.engines := rfl
@[simp] theorem State.mapVoices_broadcastHush (s : State) (f : VoiceId → Voice → Voice) : (s.mapVoices f).broadcastHush = s.broadcastHush := rfl
@[simp] theorem State.mapVoices_arbiter (s : State) (f : VoiceId → Voice → Voice) : (s.mapVoices f).arbiter = s.arbiter := rfl
@[simp] theorem State.mapVoices_blocks (s : State) (f : VoiceId → Voice → Voice) : (s.mapVoices f).blocks = s.blocks := rfl
@[simp] theorem State.mapVoices_storeTimer (s : State) (f : VoiceId → Voice → Voice) : (s.mapVoices f).storeTimer = s.storeTimer := rfl
@[simp] theorem State.mapVoices_mgmt (s : State) (f : VoiceId → Voice → Voice) : (s.mapVoices f).mgmt = s.mgmt := rfl
@[simp] theorem State.mapVoices_quiesce (s : State) (f : VoiceId → Voice → Voice) : (s.mapVoices f).quiesce = s.quiesce := rfl
@[simp] theorem State.mapVoices_gestureRx (s : State) (f : VoiceId → Voice → Voice) : (s.mapVoices f).gestureRx = s.gestureRx := rfl
@[simp] theorem State.mapVoices_voiceRx (s : State) (f : VoiceId → Voice → Voice) : (s.mapVoices f).voiceRx = s.voiceRx := rfl
@[simp] theorem State.mapVoices_power (s : State) (f : VoiceId → Voice → Voice) : (s.mapVoices f).power = s.power := rfl
@[simp] theorem State.mapVoices_timebase (s : State) (f : VoiceId → Voice → Voice) : (s.mapVoices f).timebase = s.timebase := rfl
@[simp] theorem State.mapVoices_phase (s : State) (f : VoiceId → Voice → Voice) : (s.mapVoices f).phase = s.phase := rfl
@[simp] theorem State.mapVoices_freeCount (s : State) (f : VoiceId → Voice → Voice) : (s.mapVoices f).freeCount = s.freeCount := rfl
@[simp] theorem State.mapVoices_pending (s : State) (f : VoiceId → Voice → Voice) : (s.mapVoices f).pending = s.pending := rfl

@[simp] theorem State.mapEngines_contexts (s : State) (f : EngineId → Engine → Engine) : (s.mapEngines f).contexts = s.contexts := rfl
@[simp] theorem State.mapEngines_voices (s : State) (f : EngineId → Engine → Engine) : (s.mapEngines f).voices = s.voices := rfl
@[simp] theorem State.mapEngines_engines (s : State) (f : EngineId → Engine → Engine) : (s.mapEngines f).engines = vec fun e => f e (s.engine e) := rfl
@[simp] theorem State.mapEngines_broadcastHush (s : State) (f : EngineId → Engine → Engine) : (s.mapEngines f).broadcastHush = s.broadcastHush := rfl
@[simp] theorem State.mapEngines_arbiter (s : State) (f : EngineId → Engine → Engine) : (s.mapEngines f).arbiter = s.arbiter := rfl
@[simp] theorem State.mapEngines_blocks (s : State) (f : EngineId → Engine → Engine) : (s.mapEngines f).blocks = s.blocks := rfl
@[simp] theorem State.mapEngines_storeTimer (s : State) (f : EngineId → Engine → Engine) : (s.mapEngines f).storeTimer = s.storeTimer := rfl
@[simp] theorem State.mapEngines_mgmt (s : State) (f : EngineId → Engine → Engine) : (s.mapEngines f).mgmt = s.mgmt := rfl
@[simp] theorem State.mapEngines_quiesce (s : State) (f : EngineId → Engine → Engine) : (s.mapEngines f).quiesce = s.quiesce := rfl
@[simp] theorem State.mapEngines_gestureRx (s : State) (f : EngineId → Engine → Engine) : (s.mapEngines f).gestureRx = s.gestureRx := rfl
@[simp] theorem State.mapEngines_voiceRx (s : State) (f : EngineId → Engine → Engine) : (s.mapEngines f).voiceRx = s.voiceRx := rfl
@[simp] theorem State.mapEngines_power (s : State) (f : EngineId → Engine → Engine) : (s.mapEngines f).power = s.power := rfl
@[simp] theorem State.mapEngines_timebase (s : State) (f : EngineId → Engine → Engine) : (s.mapEngines f).timebase = s.timebase := rfl
@[simp] theorem State.mapEngines_phase (s : State) (f : EngineId → Engine → Engine) : (s.mapEngines f).phase = s.phase := rfl
@[simp] theorem State.mapEngines_freeCount (s : State) (f : EngineId → Engine → Engine) : (s.mapEngines f).freeCount = s.freeCount := rfl
@[simp] theorem State.mapEngines_pending (s : State) (f : EngineId → Engine → Engine) : (s.mapEngines f).pending = s.pending := rfl

@[simp] theorem State.mapBlocks_contexts (s : State) (f : BlockId → Block → Block) : (s.mapBlocks f).contexts = s.contexts := rfl
@[simp] theorem State.mapBlocks_voices (s : State) (f : BlockId → Block → Block) : (s.mapBlocks f).voices = s.voices := rfl
@[simp] theorem State.mapBlocks_engines (s : State) (f : BlockId → Block → Block) : (s.mapBlocks f).engines = s.engines := rfl
@[simp] theorem State.mapBlocks_broadcastHush (s : State) (f : BlockId → Block → Block) : (s.mapBlocks f).broadcastHush = s.broadcastHush := rfl
@[simp] theorem State.mapBlocks_arbiter (s : State) (f : BlockId → Block → Block) : (s.mapBlocks f).arbiter = s.arbiter := rfl
@[simp] theorem State.mapBlocks_blocks (s : State) (f : BlockId → Block → Block) : (s.mapBlocks f).blocks = vec fun b => f b (s.block b) := rfl
@[simp] theorem State.mapBlocks_storeTimer (s : State) (f : BlockId → Block → Block) : (s.mapBlocks f).storeTimer = s.storeTimer := rfl
@[simp] theorem State.mapBlocks_mgmt (s : State) (f : BlockId → Block → Block) : (s.mapBlocks f).mgmt = s.mgmt := rfl
@[simp] theorem State.mapBlocks_quiesce (s : State) (f : BlockId → Block → Block) : (s.mapBlocks f).quiesce = s.quiesce := rfl
@[simp] theorem State.mapBlocks_gestureRx (s : State) (f : BlockId → Block → Block) : (s.mapBlocks f).gestureRx = s.gestureRx := rfl
@[simp] theorem State.mapBlocks_voiceRx (s : State) (f : BlockId → Block → Block) : (s.mapBlocks f).voiceRx = s.voiceRx := rfl
@[simp] theorem State.mapBlocks_power (s : State) (f : BlockId → Block → Block) : (s.mapBlocks f).power = s.power := rfl
@[simp] theorem State.mapBlocks_timebase (s : State) (f : BlockId → Block → Block) : (s.mapBlocks f).timebase = s.timebase := rfl
@[simp] theorem State.mapBlocks_phase (s : State) (f : BlockId → Block → Block) : (s.mapBlocks f).phase = s.phase := rfl
@[simp] theorem State.mapBlocks_freeCount (s : State) (f : BlockId → Block → Block) : (s.mapBlocks f).freeCount = s.freeCount := rfl
@[simp] theorem State.mapBlocks_pending (s : State) (f : BlockId → Block → Block) : (s.mapBlocks f).pending = s.pending := rfl

@[simp] theorem State.countFree_contexts (s : State) : (s.countFree).contexts = s.contexts := rfl
@[simp] theorem State.countFree_voices (s : State) : (s.countFree).voices = s.voices := rfl
@[simp] theorem State.countFree_engines (s : State) : (s.countFree).engines = s.engines := rfl
@[simp] theorem State.countFree_broadcastHush (s : State) : (s.countFree).broadcastHush = s.broadcastHush := rfl
@[simp] theorem State.countFree_arbiter (s : State) : (s.countFree).arbiter = s.arbiter := rfl
@[simp] theorem State.countFree_blocks (s : State) : (s.countFree).blocks = s.blocks := rfl
@[simp] theorem State.countFree_storeTimer (s : State) : (s.countFree).storeTimer = s.storeTimer := rfl
@[simp] theorem State.countFree_mgmt (s : State) : (s.countFree).mgmt = s.mgmt := rfl
@[simp] theorem State.countFree_quiesce (s : State) : (s.countFree).quiesce = s.quiesce := rfl
@[simp] theorem State.countFree_gestureRx (s : State) : (s.countFree).gestureRx = s.gestureRx := rfl
@[simp] theorem State.countFree_voiceRx (s : State) : (s.countFree).voiceRx = s.voiceRx := rfl
@[simp] theorem State.countFree_power (s : State) : (s.countFree).power = s.power := rfl
@[simp] theorem State.countFree_timebase (s : State) : (s.countFree).timebase = s.timebase := rfl
@[simp] theorem State.countFree_phase (s : State) : (s.countFree).phase = s.phase := rfl
@[simp] theorem State.countFree_freeCount (s : State) : (s.countFree).freeCount = s.freeCount + 1 := rfl
@[simp] theorem State.countFree_pending (s : State) : (s.countFree).pending = s.pending := rfl

@[simp] theorem State.storeDone_contexts (s : State) : (s.storeDone).contexts = s.contexts := rfl
@[simp] theorem State.storeDone_voices (s : State) : (s.storeDone).voices = s.voices := rfl
@[simp] theorem State.storeDone_engines (s : State) : (s.storeDone).engines = s.engines := rfl
@[simp] theorem State.storeDone_broadcastHush (s : State) : (s.storeDone).broadcastHush = s.broadcastHush := rfl
@[simp] theorem State.storeDone_arbiter (s : State) : (s.storeDone).arbiter = s.arbiter := rfl
@[simp] theorem State.storeDone_blocks (s : State) : (s.storeDone).blocks = s.blocks := rfl
@[simp] theorem State.storeDone_storeTimer (s : State) : (s.storeDone).storeTimer = none := rfl
@[simp] theorem State.storeDone_mgmt (s : State) : (s.storeDone).mgmt = s.mgmt := rfl
@[simp] theorem State.storeDone_quiesce (s : State) : (s.storeDone).quiesce = s.quiesce := rfl
@[simp] theorem State.storeDone_gestureRx (s : State) : (s.storeDone).gestureRx = s.gestureRx := rfl
@[simp] theorem State.storeDone_voiceRx (s : State) : (s.storeDone).voiceRx = s.voiceRx := rfl
@[simp] theorem State.storeDone_power (s : State) : (s.storeDone).power = s.power := rfl
@[simp] theorem State.storeDone_timebase (s : State) : (s.storeDone).timebase = s.timebase := rfl
@[simp] theorem State.storeDone_phase (s : State) : (s.storeDone).phase = s.phase := rfl
@[simp] theorem State.storeDone_freeCount (s : State) : (s.storeDone).freeCount = s.freeCount := rfl
@[simp] theorem State.storeDone_pending (s : State) : (s.storeDone).pending = s.pending := rfl

@[simp] theorem State.setReceiver_contexts (s : State) (l : Link) (r : Receiver) :
    (s.setReceiver l r).contexts = s.contexts := by cases l <;> rfl
@[simp] theorem State.setReceiver_voices (s : State) (l : Link) (r : Receiver) :
    (s.setReceiver l r).voices = s.voices := by cases l <;> rfl
@[simp] theorem State.setReceiver_engines (s : State) (l : Link) (r : Receiver) :
    (s.setReceiver l r).engines = s.engines := by cases l <;> rfl
@[simp] theorem State.setReceiver_broadcastHush (s : State) (l : Link) (r : Receiver) :
    (s.setReceiver l r).broadcastHush = s.broadcastHush := by cases l <;> rfl
@[simp] theorem State.setReceiver_arbiter (s : State) (l : Link) (r : Receiver) :
    (s.setReceiver l r).arbiter = s.arbiter := by cases l <;> rfl
@[simp] theorem State.setReceiver_blocks (s : State) (l : Link) (r : Receiver) :
    (s.setReceiver l r).blocks = s.blocks := by cases l <;> rfl
@[simp] theorem State.setReceiver_storeTimer (s : State) (l : Link) (r : Receiver) :
    (s.setReceiver l r).storeTimer = s.storeTimer := by cases l <;> rfl
@[simp] theorem State.setReceiver_mgmt (s : State) (l : Link) (r : Receiver) :
    (s.setReceiver l r).mgmt = s.mgmt := by cases l <;> rfl
@[simp] theorem State.setReceiver_quiesce (s : State) (l : Link) (r : Receiver) :
    (s.setReceiver l r).quiesce = s.quiesce := by cases l <;> rfl
@[simp] theorem State.setReceiver_power (s : State) (l : Link) (r : Receiver) :
    (s.setReceiver l r).power = s.power := by cases l <;> rfl
@[simp] theorem State.setReceiver_timebase (s : State) (l : Link) (r : Receiver) :
    (s.setReceiver l r).timebase = s.timebase := by cases l <;> rfl
@[simp] theorem State.setReceiver_phase (s : State) (l : Link) (r : Receiver) :
    (s.setReceiver l r).phase = s.phase := by cases l <;> rfl
@[simp] theorem State.setReceiver_freeCount (s : State) (l : Link) (r : Receiver) :
    (s.setReceiver l r).freeCount = s.freeCount := by cases l <;> rfl
@[simp] theorem State.setReceiver_pending (s : State) (l : Link) (r : Receiver) :
    (s.setReceiver l r).pending = s.pending := by cases l <;> rfl

/-! ### Changes are writes -/

@[simp] theorem State.updCtx_eq (s : State) (i : Slot) (f : Context → Context) : s.updCtx i f = s.setCtx i (f (s.ctx i)) := rfl
@[simp] theorem State.updVoice_eq (s : State) (v : VoiceId) (f : Voice → Voice) :
    s.updVoice v f = s.setVoice v (f (s.voice v)) := rfl
@[simp] theorem State.updEngine_eq (s : State) (e : EngineId) (f : Engine → Engine) :
    s.updEngine e f = s.setEngine e (f (s.engine e)) := rfl
@[simp] theorem State.updBlock_eq (s : State) (b : BlockId) (f : Block → Block) :
    s.updBlock b f = s.setBlock b (f (s.block b)) := rfl

/-! ### Records after an update -/

@[simp] theorem vec_get {α : Type} {n : Nat} (f : Fin n → α) (i : Fin n) : (vec f)[i] = f i := by
  simp [vec]

@[simp] theorem State.ctx_setCtx_same (s : State) (i : Slot) (c : Context) : (s.setCtx i c).ctx i = c := by
  simp [State.ctx, State.setCtx]

theorem State.ctx_setCtx_ne (s : State) (i y : Slot) (c : Context) (h : y ≠ i) : (s.setCtx i c).ctx y = s.ctx y := by
  simp only [State.ctx, State.setCtx]
  exact Vector.getElem_set_ne _ _ (fun e => h (Fin.ext e.symm))

theorem State.ctx_setCtx (s : State) (i y : Slot) (c : Context) :
    (s.setCtx i c).ctx y = if y = i then c else s.ctx y := by
  split
  · next h => subst h; simp
  · next h => exact State.ctx_setCtx_ne s i y c h

@[simp] theorem State.ctx_mapContexts (s : State) (f : Slot → Context → Context) (i : Slot) : (s.mapContexts f).ctx i = f i (s.ctx i) := by
  exact vec_get (fun x => f x (s.ctx x)) _

theorem State.setCtx_same (s : State) (i : Slot) : s.setCtx i (s.ctx i) = s := by
  cases s
  simp [State.setCtx, State.ctx]

@[simp] theorem State.setCtx_setCtx (s : State) (i : Slot) (c d : Context) : (s.setCtx i c).setCtx i d = s.setCtx i d := by
  simp [State.setCtx]

theorem State.setCtx_comm (s : State) (i y : Slot) (c d : Context) (h : i ≠ y) :
    (s.setCtx i c).setCtx y d = (s.setCtx y d).setCtx i c := by
  simp only [State.setCtx]
  congr 1
  exact Vector.set_comm _ _ (fun e => h (Fin.ext e))

/-- Two states with the same records and the same other fields are one. -/
theorem State.contexts_ext (s t : State) (h : ∀ i, s.ctx i = t.ctx i) : s.contexts = t.contexts := by
  apply Vector.ext
  intro n hn
  exact h ⟨n, hn⟩

@[simp] theorem State.ctx_setVoice (s : State) (v : VoiceId) (r' : Voice) (j : Slot) : (s.setVoice v r').ctx j = s.ctx j := rfl
@[simp] theorem State.ctx_mapVoices (s : State) (f : VoiceId → Voice → Voice) (j : Slot) : (s.mapVoices f).ctx j = s.ctx j := rfl
@[simp] theorem State.ctx_setEngine (s : State) (e : EngineId) (r' : Engine) (j : Slot) : (s.setEngine e r').ctx j = s.ctx j := rfl
@[simp] theorem State.ctx_mapEngines (s : State) (f : EngineId → Engine → Engine) (j : Slot) : (s.mapEngines f).ctx j = s.ctx j := rfl
@[simp] theorem State.ctx_setBlock (s : State) (b : BlockId) (r' : Block) (j : Slot) : (s.setBlock b r').ctx j = s.ctx j := rfl
@[simp] theorem State.ctx_mapBlocks (s : State) (f : BlockId → Block → Block) (j : Slot) : (s.mapBlocks f).ctx j = s.ctx j := rfl
@[simp] theorem State.ctx_setMgmt (s : State) (m : Management) (j : Slot) : (s.setMgmt m).ctx j = s.ctx j := rfl
@[simp] theorem State.ctx_setArbiter (s : State) (a : Arbiter) (j : Slot) : (s.setArbiter a).ctx j = s.ctx j := rfl
@[simp] theorem State.ctx_setQuiesce (s : State) (q : Quiesce) (j : Slot) : (s.setQuiesce q).ctx j = s.ctx j := rfl
@[simp] theorem State.ctx_countFree (s : State) (j : Slot) : (s.countFree).ctx j = s.ctx j := rfl
@[simp] theorem State.ctx_storeDone (s : State) (j : Slot) : (s.storeDone).ctx j = s.ctx j := rfl
@[simp] theorem State.ctx_setReceiver (s : State) (l : Link) (r : Receiver) (j : Slot) :
    (s.setReceiver l r).ctx j = s.ctx j := by cases l <;> rfl
@[simp] theorem State.ctx_offer (s : State) (n : Notice) (j : Slot) : (s.offer n).ctx j = s.ctx j := rfl

@[simp] theorem State.voice_setVoice_same (s : State) (v : VoiceId) (r : Voice) : (s.setVoice v r).voice v = r := by
  simp [State.voice, State.setVoice]

theorem State.voice_setVoice_ne (s : State) (v y : VoiceId) (r : Voice) (h : y ≠ v) : (s.setVoice v r).voice y = s.voice y := by
  simp only [State.voice, State.setVoice]
  exact Vector.getElem_set_ne _ _ (fun e => h (Fin.ext e.symm))

theorem State.voice_setVoice (s : State) (v y : VoiceId) (r : Voice) :
    (s.setVoice v r).voice y = if y = v then r else s.voice y := by
  split
  · next h => subst h; simp
  · next h => exact State.voice_setVoice_ne s v y r h

@[simp] theorem State.voice_mapVoices (s : State) (f : VoiceId → Voice → Voice) (v : VoiceId) : (s.mapVoices f).voice v = f v (s.voice v) := by
  exact vec_get (fun x => f x (s.voice x)) _

theorem State.setVoice_same (s : State) (v : VoiceId) : s.setVoice v (s.voice v) = s := by
  cases s
  simp [State.setVoice, State.voice]

@[simp] theorem State.setVoice_setVoice (s : State) (v : VoiceId) (c d : Voice) : (s.setVoice v c).setVoice v d = s.setVoice v d := by
  simp [State.setVoice]

theorem State.setVoice_comm (s : State) (v y : VoiceId) (c d : Voice) (h : v ≠ y) :
    (s.setVoice v c).setVoice y d = (s.setVoice y d).setVoice v c := by
  simp only [State.setVoice]
  congr 1
  exact Vector.set_comm _ _ (fun e => h (Fin.ext e))

/-- Two states with the same records and the same other fields are one. -/
theorem State.voices_ext (s t : State) (h : ∀ v, s.voice v = t.voice v) : s.voices = t.voices := by
  apply Vector.ext
  intro n hn
  exact h ⟨n, hn⟩

@[simp] theorem State.voice_setCtx (s : State) (i : Slot) (c' : Context) (j : VoiceId) : (s.setCtx i c').voice j = s.voice j := rfl
@[simp] theorem State.voice_mapContexts (s : State) (f : Slot → Context → Context) (j : VoiceId) : (s.mapContexts f).voice j = s.voice j := rfl
@[simp] theorem State.voice_setEngine (s : State) (e : EngineId) (r' : Engine) (j : VoiceId) : (s.setEngine e r').voice j = s.voice j := rfl
@[simp] theorem State.voice_mapEngines (s : State) (f : EngineId → Engine → Engine) (j : VoiceId) : (s.mapEngines f).voice j = s.voice j := rfl
@[simp] theorem State.voice_setBlock (s : State) (b : BlockId) (r' : Block) (j : VoiceId) : (s.setBlock b r').voice j = s.voice j := rfl
@[simp] theorem State.voice_mapBlocks (s : State) (f : BlockId → Block → Block) (j : VoiceId) : (s.mapBlocks f).voice j = s.voice j := rfl
@[simp] theorem State.voice_setMgmt (s : State) (m : Management) (j : VoiceId) : (s.setMgmt m).voice j = s.voice j := rfl
@[simp] theorem State.voice_setArbiter (s : State) (a : Arbiter) (j : VoiceId) : (s.setArbiter a).voice j = s.voice j := rfl
@[simp] theorem State.voice_setQuiesce (s : State) (q : Quiesce) (j : VoiceId) : (s.setQuiesce q).voice j = s.voice j := rfl
@[simp] theorem State.voice_countFree (s : State) (j : VoiceId) : (s.countFree).voice j = s.voice j := rfl
@[simp] theorem State.voice_storeDone (s : State) (j : VoiceId) : (s.storeDone).voice j = s.voice j := rfl
@[simp] theorem State.voice_setReceiver (s : State) (l : Link) (r : Receiver) (j : VoiceId) :
    (s.setReceiver l r).voice j = s.voice j := by cases l <;> rfl
@[simp] theorem State.voice_offer (s : State) (n : Notice) (j : VoiceId) : (s.offer n).voice j = s.voice j := rfl

@[simp] theorem State.engine_setEngine_same (s : State) (e : EngineId) (r : Engine) : (s.setEngine e r).engine e = r := by
  simp [State.engine, State.setEngine]

theorem State.engine_setEngine_ne (s : State) (e y : EngineId) (r : Engine) (h : y ≠ e) : (s.setEngine e r).engine y = s.engine y := by
  simp only [State.engine, State.setEngine]
  exact Vector.getElem_set_ne _ _ (fun e => h (Fin.ext e.symm))

theorem State.engine_setEngine (s : State) (e y : EngineId) (r : Engine) :
    (s.setEngine e r).engine y = if y = e then r else s.engine y := by
  split
  · next h => subst h; simp
  · next h => exact State.engine_setEngine_ne s e y r h

@[simp] theorem State.engine_mapEngines (s : State) (f : EngineId → Engine → Engine) (e : EngineId) : (s.mapEngines f).engine e = f e (s.engine e) := by
  exact vec_get (fun x => f x (s.engine x)) _

theorem State.setEngine_same (s : State) (e : EngineId) : s.setEngine e (s.engine e) = s := by
  cases s
  simp [State.setEngine, State.engine]

@[simp] theorem State.setEngine_setEngine (s : State) (e : EngineId) (c d : Engine) : (s.setEngine e c).setEngine e d = s.setEngine e d := by
  simp [State.setEngine]

theorem State.setEngine_comm (s : State) (e y : EngineId) (c d : Engine) (h : e ≠ y) :
    (s.setEngine e c).setEngine y d = (s.setEngine y d).setEngine e c := by
  simp only [State.setEngine]
  congr 1
  exact Vector.set_comm _ _ (fun e => h (Fin.ext e))

/-- Two states with the same records and the same other fields are one. -/
theorem State.engines_ext (s t : State) (h : ∀ e, s.engine e = t.engine e) : s.engines = t.engines := by
  apply Vector.ext
  intro n hn
  exact h ⟨n, hn⟩

@[simp] theorem State.engine_setCtx (s : State) (i : Slot) (c' : Context) (j : EngineId) : (s.setCtx i c').engine j = s.engine j := rfl
@[simp] theorem State.engine_mapContexts (s : State) (f : Slot → Context → Context) (j : EngineId) : (s.mapContexts f).engine j = s.engine j := rfl
@[simp] theorem State.engine_setVoice (s : State) (v : VoiceId) (r' : Voice) (j : EngineId) : (s.setVoice v r').engine j = s.engine j := rfl
@[simp] theorem State.engine_mapVoices (s : State) (f : VoiceId → Voice → Voice) (j : EngineId) : (s.mapVoices f).engine j = s.engine j := rfl
@[simp] theorem State.engine_setBlock (s : State) (b : BlockId) (r' : Block) (j : EngineId) : (s.setBlock b r').engine j = s.engine j := rfl
@[simp] theorem State.engine_mapBlocks (s : State) (f : BlockId → Block → Block) (j : EngineId) : (s.mapBlocks f).engine j = s.engine j := rfl
@[simp] theorem State.engine_setMgmt (s : State) (m : Management) (j : EngineId) : (s.setMgmt m).engine j = s.engine j := rfl
@[simp] theorem State.engine_setArbiter (s : State) (a : Arbiter) (j : EngineId) : (s.setArbiter a).engine j = s.engine j := rfl
@[simp] theorem State.engine_setQuiesce (s : State) (q : Quiesce) (j : EngineId) : (s.setQuiesce q).engine j = s.engine j := rfl
@[simp] theorem State.engine_countFree (s : State) (j : EngineId) : (s.countFree).engine j = s.engine j := rfl
@[simp] theorem State.engine_storeDone (s : State) (j : EngineId) : (s.storeDone).engine j = s.engine j := rfl
@[simp] theorem State.engine_setReceiver (s : State) (l : Link) (r : Receiver) (j : EngineId) :
    (s.setReceiver l r).engine j = s.engine j := by cases l <;> rfl
@[simp] theorem State.engine_offer (s : State) (n : Notice) (j : EngineId) : (s.offer n).engine j = s.engine j := rfl

@[simp] theorem State.block_setBlock_same (s : State) (b : BlockId) (r : Block) : (s.setBlock b r).block b = r := by
  simp [State.block, State.setBlock]

theorem State.block_setBlock_ne (s : State) (b y : BlockId) (r : Block) (h : y ≠ b) : (s.setBlock b r).block y = s.block y := by
  simp only [State.block, State.setBlock]
  exact Vector.getElem_set_ne _ _ (fun e => h (Fin.ext e.symm))

theorem State.block_setBlock (s : State) (b y : BlockId) (r : Block) :
    (s.setBlock b r).block y = if y = b then r else s.block y := by
  split
  · next h => subst h; simp
  · next h => exact State.block_setBlock_ne s b y r h

@[simp] theorem State.block_mapBlocks (s : State) (f : BlockId → Block → Block) (b : BlockId) : (s.mapBlocks f).block b = f b (s.block b) := by
  exact vec_get (fun x => f x (s.block x)) _

theorem State.setBlock_same (s : State) (b : BlockId) : s.setBlock b (s.block b) = s := by
  cases s
  simp [State.setBlock, State.block]

@[simp] theorem State.setBlock_setBlock (s : State) (b : BlockId) (c d : Block) : (s.setBlock b c).setBlock b d = s.setBlock b d := by
  simp [State.setBlock]

theorem State.setBlock_comm (s : State) (b y : BlockId) (c d : Block) (h : b ≠ y) :
    (s.setBlock b c).setBlock y d = (s.setBlock y d).setBlock b c := by
  simp only [State.setBlock]
  congr 1
  exact Vector.set_comm _ _ (fun e => h (Fin.ext e))

/-- Two states with the same records and the same other fields are one. -/
theorem State.blocks_ext (s t : State) (h : ∀ b, s.block b = t.block b) : s.blocks = t.blocks := by
  apply Vector.ext
  intro n hn
  exact h ⟨n, hn⟩

@[simp] theorem State.block_setCtx (s : State) (i : Slot) (c' : Context) (j : BlockId) : (s.setCtx i c').block j = s.block j := rfl
@[simp] theorem State.block_mapContexts (s : State) (f : Slot → Context → Context) (j : BlockId) : (s.mapContexts f).block j = s.block j := rfl
@[simp] theorem State.block_setVoice (s : State) (v : VoiceId) (r' : Voice) (j : BlockId) : (s.setVoice v r').block j = s.block j := rfl
@[simp] theorem State.block_mapVoices (s : State) (f : VoiceId → Voice → Voice) (j : BlockId) : (s.mapVoices f).block j = s.block j := rfl
@[simp] theorem State.block_setEngine (s : State) (e : EngineId) (r' : Engine) (j : BlockId) : (s.setEngine e r').block j = s.block j := rfl
@[simp] theorem State.block_mapEngines (s : State) (f : EngineId → Engine → Engine) (j : BlockId) : (s.mapEngines f).block j = s.block j := rfl
@[simp] theorem State.block_setMgmt (s : State) (m : Management) (j : BlockId) : (s.setMgmt m).block j = s.block j := rfl
@[simp] theorem State.block_setArbiter (s : State) (a : Arbiter) (j : BlockId) : (s.setArbiter a).block j = s.block j := rfl
@[simp] theorem State.block_setQuiesce (s : State) (q : Quiesce) (j : BlockId) : (s.setQuiesce q).block j = s.block j := rfl
@[simp] theorem State.block_countFree (s : State) (j : BlockId) : (s.countFree).block j = s.block j := rfl
@[simp] theorem State.block_storeDone (s : State) (j : BlockId) : (s.storeDone).block j = s.block j := rfl
@[simp] theorem State.block_setReceiver (s : State) (l : Link) (r : Receiver) (j : BlockId) :
    (s.setReceiver l r).block j = s.block j := by cases l <;> rfl
@[simp] theorem State.block_offer (s : State) (n : Notice) (j : BlockId) : (s.offer n).block j = s.block j := rfl

end Sys2Proof.Machine
end

