-- ==== Sys2Proof/Laws/Arbiter.lean ====
section
/-! SUPPORT. The order of selection: what each class and band would serve, first in cyclic order; and what a choice that is taken
leaves of the arbiter. -/

namespace Sys2Proof.Machine

/-! ### First in a sorted list -/

theorem find_least {α : Type} (f : α → Nat) (l : List α) (hs : l.Pairwise fun a b => f a < f b) (p : α → Bool) (v w : α)
    (h : l.find? p = some v) (hw : w ∈ l) (hp : p w = true) : f v ≤ f w := by
  induction l with
  | nil => cases hw
  | cons x xs ih =>
    rw [List.pairwise_cons] at hs
    simp only [List.find?_cons] at h
    cases hx : p x with
    | true =>
      simp only [hx, Option.some.injEq] at h
      subst h
      rcases List.mem_cons.1 hw with rfl | hm
      · exact Nat.le_refl _
      · exact (hs.1 w hm).le
    | false =>
      simp only [hx] at h
      rcases List.mem_cons.1 hw with rfl | hm
      · rw [hx] at hp; cases hp
      · exact ih hs.2 h hm

theorem findSome_least {α β : Type} (f : α → Nat) (l : List α) (hs : l.Pairwise fun a b => f a < f b) (g : α → Option β)
    (b : β) (h : l.findSome? g = some b) : ∃ v ∈ l, g v = some b ∧ ∀ w ∈ l, g w ≠ none → f v ≤ f w := by
  induction l with
  | nil => simp at h
  | cons x xs ih =>
    rw [List.pairwise_cons] at hs
    simp only [List.findSome?_cons] at h
    cases hx : g x with
    | some y =>
      simp only [hx, Option.some.injEq] at h
      subst h
      refine ⟨x, by simp, hx, fun w hw _ => ?_⟩
      rcases List.mem_cons.1 hw with rfl | hm
      · exact Nat.le_refl _
      · exact (hs.1 w hm).le
    | none =>
      simp only [hx] at h
      obtain ⟨v, hv, h1, h2⟩ := ih hs.2 h
      refine ⟨v, by simp [hv], h1, fun w hw hg => ?_⟩
      rcases List.mem_cons.1 hw with rfl | hm
      · exact absurd hx hg
      · exact h2 w hm hg

/-! ### Cyclic orders (R112, R113) -/

/-- The indexes after a rotation point come in the order of their cyclic distance from it. -/
theorem afterPoint_sorted (n : Nat) (point : Option (Fin n)) :
    (afterPoint point).Pairwise fun a b =>
      cyclicDistance n (point.map (·.val)) a.val < cyclicDistance n (point.map (·.val)) b.val := by
  cases point with
  | none => simpa [afterPoint, cyclicDistance] using List.pairwise_lt_finRange n
  | some p =>
    have hp := p.isLt
    have behind : ∀ a : Fin n, p.val < a.val → cyclicDistance n (some p.val) a.val = a.val - 1 - p.val := by
      intro a ha
      have := a.isLt
      simp only [cyclicDistance]
      rw [show a.val + n - 1 - p.val = (a.val - 1 - p.val) + n by omega, Nat.add_mod_right, Nat.mod_eq_of_lt (by omega)]
    have wrapped : ∀ a : Fin n, a.val ≤ p.val → cyclicDistance n (some p.val) a.val = a.val + n - 1 - p.val := by
      intro a ha
      simp only [cyclicDistance]
      rw [Nat.mod_eq_of_lt (by omega)]
    simp only [afterPoint, Option.map_some]
    have sorted := List.pairwise_lt_finRange n
    refine List.pairwise_append.2 ⟨?_, ?_, fun a ha b hb => ?_⟩
    · refine List.Pairwise.imp_of_mem ?_ (sorted.filter _)
      intro a b ha hb hab
      have hab := Fin.lt_def.1 hab
      have ha : p.val < a.val := by simpa using ha
      rw [behind a ha, behind b (by omega)]
      omega
    · refine List.Pairwise.imp_of_mem ?_ (sorted.filter _)
      intro a b ha hb hab
      have hab := Fin.lt_def.1 hab
      have hb : b.val ≤ p.val := by simpa using hb
      rw [wrapped a (by omega), wrapped b hb]
      omega
    · have ha : p.val < a.val := by simpa using ha
      have hb : b.val ≤ p.val := by simpa using hb
      have := a.isLt
      rw [behind a ha, wrapped b hb]
      omega

theorem mem_afterPoint {n : Nat} (point : Option (Fin n)) (v : Fin n) : v ∈ afterPoint point := by
  cases point with
  | none => simp [afterPoint]
  | some p => simp [afterPoint]; omega

/-- The classes after a rotation point come in the order of their cyclic distance from it. -/
theorem classesAfter_sorted (point : Option ServiceClass) :
    (classesAfter point).Pairwise fun a b =>
      cyclicDistance 8 (point.map (·.number)) a.number < cyclicDistance 8 (point.map (·.number)) b.number := by
  cases point with
  | none => decide
  | some p => cases p <;> decide

theorem mem_classesAfter (point : Option ServiceClass) (c : ServiceClass) : c ∈ classesAfter point := by
  cases point with
  | none => cases c <;> decide
  | some p => cases c <;> cases p <;> decide

/-! ### What a class serves (R106, R113, R114) -/

theorem State.voiceEligible_iff (s : State) (c : ServiceClass) (v : VoiceId) : s.voiceEligible c v = true ↔ s.owes c v := by
  cases c <;> simp [State.voiceEligible, State.owes, State.voiceHeld, Voice.owesUpdate, Voice.owesStart]
  · rcases (s.voice v).pending with _ | ⟨_, _⟩ | ⟨_, _⟩ | _ <;> simp
  all_goals tauto

/-- The record a voice class serves is the eligible one nearest behind its rotation point (R113). -/
theorem State.nextVoice_some (s : State) (c : ServiceClass) (v : VoiceId) (h : s.nextVoice c = some v) :
    let behind (v : VoiceId) : Nat := cyclicDistance 96 ((s.arbiter.voicePoints.get c).map (·.val)) v.val
    s.owes c v ∧ ∀ w, s.owes c w → behind v ≤ behind w :=
  ⟨(s.voiceEligible_iff c v).1 (List.find?_some h), fun w hw =>
    find_least (fun v : VoiceId => cyclicDistance 96 ((s.arbiter.voicePoints.get c).map (·.val)) v.val) _
      (afterPoint_sorted 96 _) _ v w h (mem_afterPoint _ _) ((s.voiceEligible_iff c w).2 hw)⟩

theorem State.nextVoice_none (s : State) (c : ServiceClass) : s.nextVoice c = none ↔ ∀ v, ¬ s.owes c v := by
  simp only [State.nextVoice, List.find?_eq_none, ← State.voiceEligible_iff]
  exact ⟨fun h v => h v (mem_afterPoint _ _), fun h v _ => h v⟩

theorem Management.replyReady_iff (m : Management) :
    m.replyReady = true ↔ ∃ e rest, m.replies = e :: rest ∧ e.result ≠ none := by
  unfold Management.replyReady
  split
  · next e es h => rw [h]; cases he : e.result <;> simp [he]
  · next h => simp [h]

/-- A class serves nothing exactly when it has no eligible item. -/
theorem State.nextItem_none (s : State) (c : ServiceClass) : s.nextItem c = none ↔ ¬ s.classEligible c := by
  have voiceClass : ∀ c, c ≠ .control → c ≠ .reply → c ≠ .notice →
      (((s.nextVoice c).map Item.voice = none) ↔ ¬ s.classEligible c) := by
    intro c h1 h2 h3
    rw [Option.map_eq_none_iff, State.nextVoice_none]
    simp [State.classEligible, h1, h2, h3]
  cases c with
  | start => exact voiceClass .start (by simp) (by simp) (by simp)
  | ending => exact voiceClass .ending (by simp) (by simp) (by simp)
  | pitch => exact voiceClass .pitch (by simp) (by simp) (by simp)
  | level => exact voiceClass .level (by simp) (by simp) (by simp)
  | timbre => exact voiceClass .timbre (by simp) (by simp) (by simp)
  | control =>
    have noVoice : ∀ v, ¬ s.owes .control v := fun v h => h.2
    simp only [State.nextItem, State.nextControl, State.classEligible]
    cases hb : s.broadcastHush <;> simp [noVoice, engineIds]
  | reply =>
    have noVoice : ∀ v, ¬ s.owes .reply v := fun v h => h.2
    simp only [State.nextItem, State.classEligible, ← Management.replyReady_iff]
    simp [noVoice]
  | notice =>
    have noVoice : ∀ v, ¬ s.owes .notice v := fun v h => h.2
    simp only [State.nextItem, State.classEligible]
    cases s.mgmt.notices <;> simp [noVoice]

/-! ### What a band serves (R111, R112) -/

theorem State.bandChoice_some (s : State) (b : Band) (ch : Choice) (h : s.bandChoice b = some ch) :
    let behind (c : ServiceClass) : Nat := cyclicDistance 8 ((s.arbiter.bandPoints.get b).map (·.number)) c.number
    s.nextItem ch.cls = some ch.item ∧ ch.band = some b ∧ s.arbiter.member b ch.cls = true ∧
      ∀ c, s.arbiter.member b c = true → s.classEligible c → behind ch.cls ≤ behind c := by
  obtain ⟨c, hm, h1, h2⟩ := findSome_least
    (fun c : ServiceClass => cyclicDistance 8 ((s.arbiter.bandPoints.get b).map (·.number)) c.number) _
    ((classesAfter_sorted _).filter _) _ _ h
  cases hn : s.nextItem c with
  | none => simp [hn] at h1
  | some item =>
    simp only [hn, Option.map_some, Option.some.injEq] at h1
    subst h1
    refine ⟨hn, rfl, by simpa using (List.mem_filter.1 hm).2, fun d hd he => h2 d (by simp [mem_classesAfter, hd]) ?_⟩
    intro hno
    exact (s.nextItem_none d).1 (by simpa using hno) he

theorem State.bandChoice_none (s : State) (b : Band) (c : ServiceClass) (h : s.bandChoice b = none)
    (hm : s.arbiter.member b c = true) : ¬ s.classEligible c := by
  unfold State.bandChoice at h
  rw [List.findSome?_eq_none_iff] at h
  exact (s.nextItem_none c).1 (by simpa using h c (by simp [mem_classesAfter, hm]))

/-! ### What a choice leaves (R104, R110, R112, R113) -/

/-- The rotation points moved and the frame in flight are what the statements call serving a choice. -/
theorem Arbiter.serves_sending (a : Arbiter) (ch : Choice) (bytes : List Byte)
    (h : ∀ v, ch.item = .voice v → ch.cls ≠ .control ∧ ch.cls ≠ .reply ∧ ch.cls ≠ .notice) :
    a.serves ((a.moved ch).sending ch.cls bytes) ch bytes := by
  refine ⟨rfl, rfl, rfl, fun x => ?_, fun c => ?_⟩
  · simp only [Arbiter.sending, Arbiter.moved]
    cases hb : ch.band with
    | none => simp
    | some b => cases b <;> cases x <;> simp [BandPoints.put, BandPoints.get]
  · simp only [Arbiter.sending, Arbiter.moved]
    cases hi : ch.item with
    | voice v =>
      have := h v hi
      cases hc : ch.cls <;> cases c <;> simp_all [VoicePoints.put, VoicePoints.get]
    | _ => rfl

/-- A selection with an idle transmitter takes the choice, and tests what may follow it (R105, R167, R176). -/
theorem State.selection_eq (s : State) (ch : Choice) (ht : s.arbiter.transmitter = none) (hc : s.choice = some ch) :
    s.selection =
      match ch.item with
      | .reply => (s.take ch).startWaiting
      | .engine _ .quiesce => (s.take ch).afterQuiesceEvent
      | .engine _ .hush => s.take ch
      | .voice _ => s.take ch
      | .broadcast => s.take ch
      | .notice => s.take ch := by
  obtain ⟨_, item, _⟩ := ch
  rcases item with _ | _ | ⟨_, _ | _⟩ | _ | _ <;> simp only [State.selection, State.selectable, ht, hc]

end Sys2Proof.Machine
end

