-- ==== Sys2Proof/Laws/Links.lean ====
section
/-! SUPPORT. What a frame on a quiet link comes to: the receiver sees the line idle and the frame is judged whole. -/

namespace Sys2Proof.Machine

/-- A receiver that waits for an idle line takes no byte (R154). -/
theorem Receiver.takeBytes_waiting (r : Receiver) (bs : List Byte) (h : r.awaitingIdle = true) : r.takeBytes bs = r := by
  induction bs with
  | nil => rfl
  | cons b bs ih =>
    simp only [Receiver.takeBytes, List.foldl_cons, Receiver.takeByte, h, if_true] at ih ⊢
    exact ih

/-- A receiver collects bytes up to 47, and the 48th ends the frame (R154). -/
theorem Receiver.takeBytes_collecting (bs c : List Byte) (h : c.length < 48) :
    Receiver.takeBytes ⟨c, false⟩ bs = if c.length + bs.length < 48 then ⟨c ++ bs, false⟩ else ⟨[], true⟩ := by
  induction bs generalizing c with
  | nil => simp [Receiver.takeBytes, h]
  | cons b bs ih =>
    simp only [Receiver.takeBytes, List.foldl_cons, Receiver.takeByte] at ih ⊢
    by_cases h1 : c.length + 1 < 48
    · have h2 := ih (c ++ [b]) (by simp; omega)
      simp only [List.length_append, List.length_cons, List.length_nil, List.append_assoc, List.cons_append,
        List.nil_append] at h2
      have h3 : c.length + (bs.length + 1) = c.length + (0 + 1) + bs.length := by omega
      simp only [h1, if_true, Bool.false_eq_true, if_false, h2, List.length_cons, h3]
    · have h3 : ¬ (c.length + (b :: bs).length < 48) := by simp; omega
      simp only [h1, h3, if_false, Bool.false_eq_true]
      exact Receiver.takeBytes_waiting ⟨[], true⟩ bs rfl

@[simp] theorem State.receiver_setReceiver (s : State) (l : Link) (r : Receiver) : (s.setReceiver l r).receiver l = r := by
  cases l <;> rfl

@[simp] theorem State.setReceiver_setReceiver (s : State) (l : Link) (r r' : Receiver) :
    (s.setReceiver l r).setReceiver l r' = s.setReceiver l r' := by
  cases l <;> rfl

theorem State.judgeFrame_nil (s : State) (l : Link) : s.judgeFrame l [] = s := by
  cases l <;> rfl

/-- A frame shorter than 48 bytes on a link whose receiver is between frames is judged whole (R154). -/
theorem State.receive_quiet (s : State) (l : Link) (frame : List Byte) (h : (s.receiver l).collected = [])
    (hn : frame.length < 48) : s.receive l frame = (s.heard l).judgeFrame l frame := by
  have h1 : s.lineIdle l = s.heard l := by
    rw [State.lineIdle, h, State.judgeFrame_nil, State.heard]
  have h2 : Receiver.takeBytes Receiver.idle frame = ⟨frame, false⟩ := by
    have := Receiver.takeBytes_collecting frame [] (by simp)
    simpa [hn, Receiver.idle] using this
  rw [State.receive, h1]
  simp only [State.bytesOn, State.lineIdle, State.heard, State.receiver_setReceiver, State.setReceiver_setReceiver, h2]

/-- A frame of 48 bytes or more leaves only a receiver that has seen the line idle (R154). -/
theorem State.receive_long (s : State) (l : Link) (frame : List Byte) (h : (s.receiver l).collected = [])
    (hn : 48 ≤ frame.length) : s.receive l frame = s.heard l := by
  have h1 : s.lineIdle l = s.heard l := by
    rw [State.lineIdle, h, State.judgeFrame_nil, State.heard]
  have h2 : Receiver.takeBytes Receiver.idle frame = ⟨[], true⟩ := by
    have := Receiver.takeBytes_collecting frame [] (by simp)
    have h3 : ¬ frame.length < 48 := by omega
    simpa [h3, Receiver.idle] using this
  rw [State.receive, h1]
  simp only [State.bytesOn, State.lineIdle, State.heard, State.receiver_setReceiver, State.setReceiver_setReceiver, h2,
    State.judgeFrame_nil]

/-- The receiver of either link is between frames when the lines are quiet. -/
theorem State.linesQuiet.collected {s : State} (h : s.linesQuiet) (l : Link) : (s.receiver l).collected = [] := by
  cases l
  · exact h.2.1
  · exact h.2.2

/-- A frame that fails its tests leaves no trace (R156, R158). -/
theorem State.receive_discarded (s : State) (l : Link) (frame : List Byte) (h : s.linesQuiet)
    (hd : ∀ t : State, t.judgeFrame l frame = t) : s.receive l frame = s.heard l := by
  by_cases hn : frame.length < 48
  · rw [s.receive_quiet l frame (h.collected l) hn, hd]
  · exact s.receive_long l frame (h.collected l) (by omega)

end Sys2Proof.Machine
end

