-- ==== Sys2Proof/Laws/Management.lean ====
section
/-! SUPPORT. What a console command comes to when it may start at once: one lemma for the start, one for each kind of answer. -/

namespace Sys2Proof.Machine

/-! ### The reply queue -/

/-- Building finds the newest entry when every earlier one is built (R169). -/
theorem buildHeld_newest (r : Built) (tag code : Byte) (es : List ReplyEntry) (h : ∀ e ∈ es, e.result ≠ none) :
    buildHeld r (es ++ [⟨tag, code, none⟩]) = es ++ [⟨tag, code, some r⟩] := by
  induction es with
  | nil => rfl
  | cons e es ih =>
    have he : e.result.isNone = false := by
      cases hr : e.result with
      | none => exact absurd hr (h e (by simp))
      | some _ => rfl
    simp [buildHeld, he, ih fun x hx => h x (by simp [hx])]

/-- The state as a command finds it that starts at once: its entry is held. -/
def State.held (s : State) (tag code : Byte) : State :=
  { s with mgmt := { s.mgmt with replies := s.mgmt.replies ++ [⟨tag, code, none⟩] } }

/-- A command that arrives at a ready console is started (R166, R167). -/
theorem State.arrive_ready (s : State) (c : Cmd) (h : s.consoleReady) :
    s.arrive c = (s.held c.tag c.code).startHeld c := by
  obtain ⟨-, hp, hw, hr, -⟩ := h
  simp only [State.arrive, hw, List.length_nil, List.nil_append, State.startWaiting, State.setMgmt_mgmt,
    List.length_singleton, State.startUpTo, hp]
  simp only [Nat.zero_lt_succ, if_true, hr]
  congr 1
  simp [State.hold, State.setMgmt, State.held, hw, hp]

/-- A console command with at most 40 parameters at a ready console is started. -/
theorem State.consoleCommand_ready (s : State) (code tag : Byte) (params : List Byte) (h : s.consoleReady)
    (hn : params.length ≤ 40) :
    s.consoleCommand code tag params = (s.held tag code).startHeld ⟨tag, code, params⟩ := by
  simp only [State.consoleCommand, State.whenRunning, h.1, hn, if_true]
  exact s.arrive_ready _ h

/-! ### The command codes (R163) -/

@[simp] theorem State.carryOut_performerSet (s : State) (tag : Byte) (ps : List Byte) :
    s.carryOut ⟨tag, 0x10#8, ps⟩ = s.performerSet ps := rfl
@[simp] theorem State.carryOut_performerEnable (s : State) (tag : Byte) (ps : List Byte) :
    s.carryOut ⟨tag, 0x11#8, ps⟩ = s.performerEnable ps := rfl
@[simp] theorem State.carryOut_performerDisable (s : State) (tag : Byte) (ps : List Byte) :
    s.carryOut ⟨tag, 0x12#8, ps⟩ = s.performerDisable ps := rfl
@[simp] theorem State.carryOut_performerRead (s : State) (tag : Byte) (ps : List Byte) :
    s.carryOut ⟨tag, 0x13#8, ps⟩ = s.performerRead ps := rfl
@[simp] theorem State.carryOut_bindCommand (s : State) (tag : Byte) (ps : List Byte) :
    s.carryOut ⟨tag, 0x20#8, ps⟩ = s.bindCommand ps := rfl
@[simp] theorem State.carryOut_engineSet (s : State) (tag : Byte) (ps : List Byte) :
    s.carryOut ⟨tag, 0x30#8, ps⟩ = s.engineSet ps := rfl
@[simp] theorem State.carryOut_engineRead (s : State) (tag : Byte) (ps : List Byte) :
    s.carryOut ⟨tag, 0x31#8, ps⟩ = s.engineRead ps := rfl
@[simp] theorem State.carryOut_voiceRead (s : State) (tag : Byte) (ps : List Byte) :
    s.carryOut ⟨tag, 0x32#8, ps⟩ = s.voiceRead ps := rfl
@[simp] theorem State.carryOut_arbiterSet (s : State) (tag : Byte) (ps : List Byte) :
    s.carryOut ⟨tag, 0x40#8, ps⟩ = s.arbiterSet ps := rfl
@[simp] theorem State.carryOut_arbiterRead (s : State) (tag : Byte) (ps : List Byte) :
    s.carryOut ⟨tag, 0x41#8, ps⟩ = s.arbiterRead ps := rfl
@[simp] theorem State.carryOut_tableErase (s : State) (tag : Byte) (ps : List Byte) :
    s.carryOut ⟨tag, 0x50#8, ps⟩ = s.tableErase ps := rfl
@[simp] theorem State.carryOut_tableWrite (s : State) (tag : Byte) (ps : List Byte) :
    s.carryOut ⟨tag, 0x51#8, ps⟩ = s.tableWrite ps := rfl
@[simp] theorem State.carryOut_tableCommit (s : State) (tag : Byte) (ps : List Byte) :
    s.carryOut ⟨tag, 0x52#8, ps⟩ = s.tableCommit ps := rfl
@[simp] theorem State.carryOut_tableVerify (s : State) (tag : Byte) (ps : List Byte) :
    s.carryOut ⟨tag, 0x53#8, ps⟩ = s.tableVerify ps := rfl
@[simp] theorem State.carryOut_tableBlankCheck (s : State) (tag : Byte) (ps : List Byte) :
    s.carryOut ⟨tag, 0x54#8, ps⟩ = s.tableBlankCheck ps := rfl
@[simp] theorem State.carryOut_tableRead (s : State) (tag : Byte) (ps : List Byte) :
    s.carryOut ⟨tag, 0x55#8, ps⟩ = s.tableRead ps := rfl
@[simp] theorem State.carryOut_tableLock (s : State) (tag : Byte) (ps : List Byte) :
    s.carryOut ⟨tag, 0x56#8, ps⟩ = s.tableLock ps := rfl
@[simp] theorem State.carryOut_blockRead (s : State) (tag : Byte) (ps : List Byte) :
    s.carryOut ⟨tag, 0x57#8, ps⟩ = s.blockRead ps := rfl
@[simp] theorem State.carryOut_storeClear (s : State) (tag : Byte) (ps : List Byte) :
    s.carryOut ⟨tag, 0x58#8, ps⟩ = s.storeClear ps := rfl
@[simp] theorem State.carryOut_noticeMaskSet (s : State) (tag : Byte) (ps : List Byte) :
    s.carryOut ⟨tag, 0x60#8, ps⟩ = s.noticeMaskSet ps := rfl
@[simp] theorem State.carryOut_resetCommand (s : State) (tag : Byte) (ps : List Byte) :
    s.carryOut ⟨tag, 0x70#8, ps⟩ = s.resetCommand ps := rfl

/-! ### Answers -/

/-- A refusal leaves only the reply (R168, R169). -/
theorem State.startHeld_refused (s : State) (c : Cmd) (cause : Cause) (data : List Byte) (h : s.consoleReady)
    (hc : (s.held c.tag c.code).carryOut c = .refused cause data) :
    (s.held c.tag c.code).startHeld c = s.answered c.tag c.code (some cause) data := by
  have h1 : (s.held c.tag c.code).startHeld c = (s.held c.tag c.code).buildReply (some cause) data := by
    simp only [State.startHeld, hc]
  rw [h1]
  simp only [State.buildReply, State.held, State.setMgmt, State.answered, buildHeld_newest _ _ _ _ h.2.2.2.2, h.2.1]

/-- A command that takes no time and leaves the queues alone is answered at once (R167, R169). -/
theorem State.startHeld_done (s t : State) (c : Cmd) (data : List Byte) (h : s.consoleReady)
    (hc : (s.held c.tag c.code).carryOut c = .done t data)
    (hm : t.mgmt.replies = s.mgmt.replies ++ [⟨c.tag, c.code, none⟩]) :
    (s.held c.tag c.code).startHeld c = { t with mgmt := { t.mgmt with
      inProgress := none
      replies := s.mgmt.replies ++ [⟨c.tag, c.code, some ⟨none, t.mgmt.overrun, data⟩⟩]
      overrun := false } } := by
  have h1 : (s.held c.tag c.code).startHeld c = t.buildReply none data := by
    simp only [State.startHeld, hc]
  rw [h1]
  simp only [State.buildReply, State.setMgmt, hm, buildHeld_newest _ _ _ _ h.2.2.2.2]

/-- A refused console command at a ready console leaves only the reply. -/
theorem State.consoleCommand_refused (s : State) (code tag : Byte) (params : List Byte) (cause : Cause) (data : List Byte)
    (h : s.consoleReady) (hn : params.length ≤ 40)
    (hc : (s.held tag code).carryOut ⟨tag, code, params⟩ = .refused cause data) :
    s.consoleCommand code tag params = s.answered tag code (some cause) data := by
  rw [s.consoleCommand_ready _ _ _ h hn, s.startHeld_refused ⟨tag, code, params⟩ _ _ h hc]

/-- A console command at a ready console that takes no time and leaves the Management Unit alone. -/
theorem State.consoleCommand_done (s t : State) (code tag : Byte) (params : List Byte) (data : List Byte)
    (h : s.consoleReady) (hn : params.length ≤ 40)
    (hc : (s.held tag code).carryOut ⟨tag, code, params⟩ = .done t data) (hm : t.mgmt = (s.held tag code).mgmt) :
    s.consoleCommand code tag params = { t with mgmt := (s.answered tag code none data).mgmt } := by
  rw [s.consoleCommand_ready _ _ _ h hn, s.startHeld_done t ⟨tag, code, params⟩ _ h hc (by rw [hm]; rfl), hm]
  simp [State.held, State.answered, h.2.1]

/-- The held entry changes no record a command reads but the reply queue. -/
@[simp] theorem State.held_ctx (s : State) (tag code : Byte) (i : Slot) : (s.held tag code).ctx i = s.ctx i := rfl
@[simp] theorem State.held_voice (s : State) (tag code : Byte) (v : VoiceId) : (s.held tag code).voice v = s.voice v := rfl
@[simp] theorem State.held_engine (s : State) (tag code : Byte) (e : EngineId) :
    (s.held tag code).engine e = s.engine e := rfl
@[simp] theorem State.held_block (s : State) (tag code : Byte) (b : BlockId) : (s.held tag code).block b = s.block b := rfl
@[simp] theorem State.held_bound (s : State) (tag code : Byte) (b : BlockId) : (s.held tag code).bound b = s.bound b := rfl

/-- A console command that goes on for a time, and is not a RESET, is in progress with its entry held (R167). -/
theorem State.consoleCommand_started (s t : State) (code tag : Byte) (params : List Byte) (work : Work)
    (h : s.consoleReady) (hn : params.length ≤ 40)
    (hc : (s.held tag code).carryOut ⟨tag, code, params⟩ = .started t work) (hw : work ≠ .reset) :
    s.consoleCommand code tag params = t.setInProgress ⟨tag, code, params⟩ work := by
  rw [State.consoleCommand_ready _ _ _ _ h hn, State.startHeld, hc]
  cases work <;> first | rfl | exact absurd rfl hw

/-- With a command in progress or no reply entry free, nothing starts (R167). -/
theorem State.startUpTo_blocked (n : Nat) (s : State) (h : s.mgmt.inProgress ≠ none ∨ 2 ≤ s.mgmt.replies.length) :
    s.startUpTo n = s := by
  cases n with
  | zero => rfl
  | succ n =>
    unfold State.startUpTo
    split
    · next h1 h2 =>
      rcases h with h | h
      · exact absurd h1 h
      · simp [Nat.not_lt.2 h]
    · rfl
    · rfl

/-- With nothing waiting, nothing starts (R167). -/
theorem State.startWaiting_nil (s : State) (h : s.mgmt.waiting = []) : s.startWaiting = s := by
  simp only [State.startWaiting, h, List.length_nil, State.startUpTo]

/-- The completion of a store operation: its effects on its block, its reply, and then the test of the waiting list
(R127, R167). -/
theorem State.complete_finished (s : State) (c : Cmd) (earlier : List ReplyEntry) (b : BlockId) (f : Block → Block)
    (data : Block → List Byte) (hr : s.mgmt.replies = earlier ++ [⟨c.tag, c.code, none⟩])
    (he : ∀ e ∈ earlier, e.result ≠ none) :
    s.complete b f data =
      (State.finished { s with blocks := s.blocks.set b (f (s.block b)), storeTimer := none } earlier c
        (data (f (s.block b)))).startWaiting := by
  unfold State.complete
  dsimp only
  have h1 : (s.updBlock b f).storeDone.block b = f (s.block b) := by simp
  rw [h1]
  simp only [State.buildReply, State.storeDone, State.updBlock_eq, State.setBlock_mgmt, hr, buildHeld_newest _ _ _ _ he]
  rfl

/-- The completion of a store operation with nothing waiting behind it (R127, R167). -/
theorem State.complete_eq (s : State) (c : Cmd) (earlier : List ReplyEntry) (b : BlockId) (f : Block → Block)
    (data : Block → List Byte) (hw : s.mgmt.waiting = [])
    (hr : s.mgmt.replies = earlier ++ [⟨c.tag, c.code, none⟩]) (he : ∀ e ∈ earlier, e.result ≠ none) :
    s.complete b f data = State.finished { s with blocks := s.blocks.set b (f (s.block b)), storeTimer := none } earlier c
        (data (f (s.block b))) := by
  rw [s.complete_finished c earlier b f data hr he]
  exact State.startWaiting_nil _ hw

/-! ### Operands that name a record -/

theorem indexOf_byte {n : Nat} (i : Fin n) (h : n ≤ 256) : indexOf n (byte i.val) = some i := by
  have hi : (byte i.val).toNat = i.val := by
    simp only [byte, BitVec.toNat_ofNat]
    omega
  unfold indexOf
  simp [hi]

theorem indexOf_outside {n : Nat} (x : Byte) (h : n ≤ x.toNat) : indexOf n x = none := by
  unfold indexOf
  simp only [dite_eq_right_iff, reduceCtorEq, imp_false]
  omega

end Sys2Proof.Machine
end

