-- ==== Sys2Proof/Laws/Section.lean ====
section
/-! SUPPORT. What the shared operations on contexts and voices do, each said once: requests to the voices of a note, the end of a
note, staged bindings, and the operations that only the section can change. -/

namespace Sys2Proof.Machine

/-! ### Updates of the voice records -/

theorem State.mapVoices_ext (s : State) (f g : VoiceId → Voice → Voice) (h : ∀ v, f v (s.voice v) = g v (s.voice v)) :
    s.mapVoices f = s.mapVoices g := by
  simp only [State.mapVoices, funext h]

theorem State.mapVoices_mapVoices (s : State) (f g : VoiceId → Voice → Voice) :
    (s.mapVoices f).mapVoices g = s.mapVoices fun v r => g v (f v r) := by
  simp only [State.mapVoices, State.voice, Fin.getElem_fin]
  congr 2
  funext v
  congr 1
  exact vec_get (fun v => f v s.voices[v]) v

theorem State.mapVoices_id (s : State) (f : VoiceId → Voice → Voice) (h : ∀ v, f v (s.voice v) = s.voice v) :
    s.mapVoices f = s := by
  have hv : (vec fun v => f v (s.voice v)) = s.voices := by
    apply Vector.ext
    intro n hn
    exact (vec_get (fun v => f v (s.voice v)) (⟨n, hn⟩ : VoiceId)).trans (h ⟨n, hn⟩)
  simp only [State.mapVoices, hv]

theorem State.updVoice_map (s : State) (v : VoiceId) (f : Voice → Voice) :
    s.updVoice v f = s.mapVoices fun w r => if w = v then f r else r := by
  have hv : s.voices.set v (f (s.voice v)) = vec fun w => if w = v then f (s.voice w) else s.voice w := by
    apply Vector.ext
    intro n hn
    have h2 := vec_get (fun w => if w = v then f (s.voice w) else s.voice w) (⟨n, hn⟩ : VoiceId)
    have h1 := State.voice_setVoice s v ⟨n, hn⟩ (f (s.voice v))
    simp only [State.voice, State.setVoice, Fin.getElem_fin] at h1 h2 ⊢
    rw [h1, h2]
    split
    · next h => subst h; rfl
    · rfl
  simp only [State.updVoice, State.setVoice, State.mapVoices, hv]

/-- One request to each voice of a list, when asking a voice twice is asking it once. -/
theorem forEach_updVoice (l : List VoiceId) (f : VoiceId → Voice → Voice) (hf : ∀ v r, f v (f v r) = f v r) (s : State) :
    forEach l (fun v s => s.updVoice v (f v)) s = s.mapVoices fun v r => if v ∈ l then f v r else r := by
  induction l generalizing s with
  | nil =>
    refine (State.mapVoices_id s _ ?_).symm
    simp
  | cons x l ih =>
    have h1 : forEach (x :: l) (fun v s => s.updVoice v (f v)) s =
        forEach l (fun v s => s.updVoice v (f v)) (s.updVoice x (f x)) := rfl
    rw [h1, ih, State.updVoice_map, State.mapVoices_mapVoices]
    apply State.mapVoices_ext
    intro v
    by_cases h2 : v = x
    · subst h2; by_cases h3 : v ∈ l <;> simp [h3, hf]
    · simp [h2]

theorem forEach_congr {α : Type} (l : List α) (f g : α → State → State) (s : State) (p : State → Prop)
    (hs : p s) (hp : ∀ a t, p t → p (g a t)) (h : ∀ a t, p t → f a t = g a t) : forEach l f s = forEach l g s := by
  induction l generalizing s with
  | nil => rfl
  | cons a l ih =>
    have h1 : forEach (a :: l) f s = forEach l f (f a s) := rfl
    have h2 : forEach (a :: l) g s = forEach l g (g a s) := rfl
    rw [h1, h2, h a s hs]
    exact ih (g a s) (hp a s hs)

/-! ### Requests to the voices of a note (R75, R82, R84) -/

theorem Voice.ended_ended (r : Voice) (now : Stamp) : (r.ended now).ended now = r.ended now := by
  cases r with
  | mk state owner layer copy tag startStamp releaseStamp pending flags tailTimer =>
    cases state <;> simp only [Voice.ended, Voice.letGo]
    cases pending with
    | none => rfl
    | some d => cases d <;> rfl

theorem Voice.flagged_flagged (r : Voice) (x : UpdateFlag) : (r.flagged x).flagged x = r.flagged x := by
  cases r with
  | mk state owner layer copy tag startStamp releaseStamp pending flags tailTimer =>
    cases state <;> cases x <;> rfl

/-- The end requests of a note (R75). -/
theorem State.endVoices_eq (s : State) (i : Slot) :
    s.endVoices i = s.mapVoices fun v r => if v ∈ (s.ctx i).noteVoices then r.ended s.timebase else r := by
  rw [State.endVoices, ← forEach_updVoice _ (fun _ r => r.ended s.timebase) (fun _ r => Voice.ended_ended r _)]
  exact forEach_congr _ _ _ s (fun t => t.timebase = s.timebase) rfl (fun _ _ h => h)
    (fun a t h => by rw [State.endVoice, h])

/-- The flags of a note's voices (R60, R71, R72). -/
theorem State.flagVoices_eq (s : State) (i : Slot) (x : UpdateFlag) (p : VoiceId → Bool) :
    s.flagVoices i x p = s.mapVoices fun v r => if v ∈ (s.ctx i).noteVoices ∧ p v = true then r.flagged x else r := by
  have h := forEach_updVoice ((s.ctx i).noteVoices.filter p) (fun _ r => r.flagged x)
    (fun _ r => Voice.flagged_flagged r x) s
  simp only [List.mem_filter] at h
  exact h

@[simp] theorem State.endVoices_contexts (s : State) (i : Slot) : (s.endVoices i).contexts = s.contexts := by
  rw [s.endVoices_eq]; rfl

@[simp] theorem State.endVoices_ctx (s : State) (i j : Slot) : (s.endVoices i).ctx j = s.ctx j := by
  rw [s.endVoices_eq]; rfl

/-- The end of a note (R75). -/
theorem State.noteEnd_eq (s : State) (i : Slot) :
    s.noteEnd i = (s.mapVoices fun v r => if v ∈ (s.ctx i).noteVoices then r.ended s.timebase else r).setCtx i
      { s.ctx i with note := none, timers := { (s.ctx i).timers with glideStep := none } } := by
  rw [State.noteEnd, State.updCtx_eq, State.endVoices_ctx, State.endVoices_eq]

/-- An onset or a note given up (R10, R13, R38, R145, R175). -/
theorem State.abandon_eq (s : State) (i : Slot) :
    s.abandon i = (s.mapVoices fun v r => if v ∈ (s.ctx i).noteVoices then r.ended s.timebase else r).setCtx i
      { s.ctx i with
        note := none
        onset := none
        candidate := false
        timers := { (s.ctx i).timers with attack := none, settle := none, glideStep := none } } := by
  simp only [State.abandon, State.noteEnd_eq, State.updCtx_eq, State.ctx_setCtx_same, State.setCtx_timebase]
  simp only [State.setCtx, State.mapVoices, Vector.set_set]
  rfl

/-! ### What only the section can change -/

theorem State.onlySection.refl (s : State) : s.onlySection s := rfl

theorem State.onlySection.trans {s t u : State} (h1 : s.onlySection t) (h2 : t.onlySection u) : s.onlySection u := by
  simp only [State.onlySection] at h1 h2 ⊢
  rw [h2, h1]

theorem State.onlySection_setCtx (s : State) (i : Slot) (c : Context) : s.onlySection (s.setCtx i c) := rfl

theorem State.onlySection_setVoice (s : State) (v : VoiceId) (r : Voice) : s.onlySection (s.setVoice v r) := rfl

theorem State.onlySection_mapVoices (s : State) (f : VoiceId → Voice → Voice) : s.onlySection (s.mapVoices f) := rfl

theorem State.onlySection_mapContexts (s : State) (f : Slot → Context → Context) : s.onlySection (s.mapContexts f) := rfl

theorem State.onlySection_offer (s : State) (n : Notice) : s.onlySection (s.offer n) := by
  simp only [State.onlySection, State.offer, State.setMgmt, Management.offer]
  split
  · rfl
  · split <;> rfl

theorem State.onlySection_endVoices (s : State) (i : Slot) : s.onlySection (s.endVoices i) := by
  rw [State.endVoices_eq]; rfl

theorem State.onlySection_flagVoices (s : State) (i : Slot) (x : UpdateFlag) (p : VoiceId → Bool) :
    s.onlySection (s.flagVoices i x p) := by
  rw [State.flagVoices_eq]; rfl

theorem State.onlySection_noteEnd (s : State) (i : Slot) : s.onlySection (s.noteEnd i) := by
  rw [State.noteEnd_eq]; rfl

theorem State.onlySection_abandon (s : State) (i : Slot) : s.onlySection (s.abandon i) := by
  rw [State.abandon_eq]; rfl

theorem forEach_onlySection {α : Type} (l : List α) (f : α → State → State) (s : State)
    (h : ∀ a t, State.onlySection t (f a t)) : s.onlySection (forEach l f s) := by
  induction l generalizing s with
  | nil => rfl
  | cons a l ih => exact (h a s).trans (ih (f a s))

/-! ### Staged bindings (R146) -/

theorem Bindings.get_set_same (b : Bindings) (k : TableKind) (v : Binding) : (b.set k v).get k = v := by
  cases k <;> rfl

theorem Bindings.get_set_ne (b : Bindings) (k k' : TableKind) (v : Binding) (h : k' ≠ k) : (b.set k v).get k' = b.get k' := by
  cases k <;> cases k' <;> first | rfl | exact absurd rfl h

theorem Bindings.ext_get (a b : Bindings) (h : ∀ k, a.get k = b.get k) : a = b := by
  have h1 := h .map
  have h2 := h .curve
  have h3 := h .plan
  cases a; cases b
  simp only [Bindings.get] at h1 h2 h3
  subst h1 h2 h3
  rfl

theorem State.onlySection_applyStaged (s : State) (i : Slot) (timing : StagedTiming) (k : TableKind) :
    s.onlySection (s.applyStaged i timing k) := by
  unfold State.applyStaged
  split
  · split
    · exact (s.onlySection_setCtx i _).trans (State.onlySection_offer _ _)
    · rfl
  · rfl

theorem State.onlySection_applyAll (s : State) (i : Slot) (timing : StagedTiming) : s.onlySection (s.applyAll i timing) :=
  forEach_onlySection _ _ s fun k t => t.onlySection_applyStaged i timing k

/-- The contexts and voices after one staged binding is applied (R146). -/
theorem State.applyStaged_contexts (s : State) (i : Slot) (timing : StagedTiming) (k : TableKind) :
    (s.applyStaged i timing k).contexts = (s.setCtx i { s.ctx i with
      bindings := (s.ctx i).bindings.set k (((s.ctx i).bindings.get k).appliedAt timing) }).contexts := by
  have h0 : (s.ctx i).bindings.set k ((s.ctx i).bindings.get k) = (s.ctx i).bindings := by
    apply Bindings.ext_get
    intro k'
    by_cases h : k' = k
    · subst h; rw [Bindings.get_set_same]
    · rw [Bindings.get_set_ne _ _ _ _ h]
  have h1 : (s.setCtx i { s.ctx i with bindings := (s.ctx i).bindings }).contexts = s.contexts := by
    rw [show ({ s.ctx i with bindings := (s.ctx i).bindings } : Context) = s.ctx i from rfl, State.setCtx_same]
  unfold State.applyStaged Binding.appliedAt
  cases h : ((s.ctx i).bindings.get k).staged with
  | none => simp only [h0]; exact h1.symm
  | some st =>
    by_cases ht : st.timing = timing
    · simp only [ht, if_true, State.updCtx_eq, State.offer, State.setMgmt_contexts, Bindings.applied, h]
    · simp only [ht, if_false, h0]; exact h1.symm

theorem State.applyStaged_voices (s : State) (i : Slot) (timing : StagedTiming) (k : TableKind) :
    (s.applyStaged i timing k).voices = s.voices := by
  unfold State.applyStaged
  split
  · split <;> rfl
  · rfl

theorem State.ctx_of_contexts {s t : State} (h : s.contexts = t.contexts) (i : Slot) : s.ctx i = t.ctx i := by
  simp only [State.ctx, h]

theorem State.setCtx_contexts_congr {s t : State} (h : s.contexts = t.contexts) (i : Slot) (c : Context) :
    (s.setCtx i c).contexts = (t.setCtx i c).contexts := by
  simp only [State.setCtx, h]

/-- The contexts after the staged bindings of a timing are applied: only the bindings of the performer change (R146). -/
theorem State.applyAll_contexts (s : State) (i : Slot) (timing : StagedTiming) :
    (s.applyAll i timing).contexts =
      (s.setCtx i { s.ctx i with bindings := (s.ctx i).bindings.appliedAll timing }).contexts := by
  have h1 := s.applyStaged_contexts i timing .map
  have h2 := (s.applyStaged i timing .map).applyStaged_contexts i timing .curve
  have h3 := ((s.applyStaged i timing .map).applyStaged i timing .curve).applyStaged_contexts i timing .plan
  have e : s.applyAll i timing = ((s.applyStaged i timing .map).applyStaged i timing .curve).applyStaged i timing .plan := rfl
  rw [e, h3, State.setCtx_contexts_congr h2, State.ctx_of_contexts h2, State.ctx_setCtx_same, State.setCtx_setCtx,
    State.setCtx_contexts_congr h1, State.ctx_of_contexts h1, State.ctx_setCtx_same, State.setCtx_setCtx]
  rfl

@[simp] theorem State.applyAll_voices (s : State) (i : Slot) (timing : StagedTiming) :
    (s.applyAll i timing).voices = s.voices := by
  have e : s.applyAll i timing = ((s.applyStaged i timing .map).applyStaged i timing .curve).applyStaged i timing .plan := rfl
  rw [e, State.applyStaged_voices, State.applyStaged_voices, State.applyStaged_voices]

/-- The performer's context after the staged bindings of a timing are applied (R146). -/
theorem State.applyAll_ctx (s : State) (i : Slot) (timing : StagedTiming) :
    (s.applyAll i timing).ctx i = { s.ctx i with bindings := (s.ctx i).bindings.appliedAll timing } := by
  rw [State.ctx_of_contexts (s.applyAll_contexts i timing), State.ctx_setCtx_same]

theorem State.applyAll_ctx_ne (s : State) (i j : Slot) (timing : StagedTiming) (h : j ≠ i) :
    (s.applyAll i timing).ctx j = s.ctx j := by
  rw [State.ctx_of_contexts (s.applyAll_contexts i timing), State.ctx_setCtx_ne _ _ _ _ h]

theorem State.voice_of_voices {s t : State} (h : s.voices = t.voices) (v : VoiceId) : s.voice v = t.voice v := by
  simp only [State.voice, h]

/-- What an offer leaves of mask, queue and notices-dropped flag depends on these only (R170). -/
theorem Management.offer_congr {m k : Management} (n : Notice) (hm : m.mask = k.mask) (hn : m.notices = k.notices)
    (hd : m.noticesDropped = k.noticesDropped) :
    (m.offer n).mask = (k.offer n).mask ∧ (m.offer n).notices = (k.offer n).notices ∧
      (m.offer n).noticesDropped = (k.offer n).noticesDropped := by
  cases m; cases k
  simp only at hm hn hd
  subst hm hn hd
  unfold Management.offer Management.allows
  dsimp only
  split
  · exact ⟨rfl, rfl, rfl⟩
  · split <;> exact ⟨rfl, rfl, rfl⟩

theorem State.applyStaged_offers {s t : State} {i : Slot} (timing : StagedTiming) (k : TableKind)
    (h : (s.ctx i).bindings = (t.ctx i).bindings ∧ s.mgmt.mask = t.mgmt.mask ∧ s.mgmt.notices = t.mgmt.notices ∧
      s.mgmt.noticesDropped = t.mgmt.noticesDropped) :
    let a := s.applyStaged i timing k
    let b := t.applyStaged i timing k
    (a.ctx i).bindings = (b.ctx i).bindings ∧ a.mgmt.mask = b.mgmt.mask ∧ a.mgmt.notices = b.mgmt.notices ∧
      a.mgmt.noticesDropped = b.mgmt.noticesDropped := by
  obtain ⟨hb, hm, hn, hd⟩ := h
  unfold State.applyStaged
  rw [hb]
  cases ((t.ctx i).bindings.get k).staged with
  | none => exact ⟨hb, hm, hn, hd⟩
  | some st =>
    by_cases ht : st.timing = timing
    · simp only [ht, if_true, State.updCtx_eq]
      exact ⟨by simp [State.ctx_offer, hb], Management.offer_congr _ hm hn hd⟩
    · simp only [ht, if_false]
      exact ⟨hb, hm, hn, hd⟩

/-- Applying the staged bindings of a performer offers the same notices from states that agree on its bindings, the mask and
the notice queue (R146, R153). -/
theorem State.applyAll_offers {s t : State} {i : Slot} (timing : StagedTiming)
    (h : (s.ctx i).bindings = (t.ctx i).bindings ∧ s.mgmt.mask = t.mgmt.mask ∧ s.mgmt.notices = t.mgmt.notices ∧
      s.mgmt.noticesDropped = t.mgmt.noticesDropped) :
    (s.applyAll i timing).mgmt.notices = (t.applyAll i timing).mgmt.notices ∧
      (s.applyAll i timing).mgmt.noticesDropped = (t.applyAll i timing).mgmt.noticesDropped :=
  (State.applyStaged_offers timing .plan
    (State.applyStaged_offers timing .curve (State.applyStaged_offers timing .map h))).2.2

/-- What applying staged bindings leaves of the Management Unit depends on it and on the performer's bindings (R146, R153). -/
theorem State.applyAll_mgmt_congr {s t : State} {i : Slot} (timing : StagedTiming)
    (hb : (s.ctx i).bindings = (t.ctx i).bindings) (hm : s.mgmt = t.mgmt) :
    (s.applyAll i timing).mgmt = (t.applyAll i timing).mgmt := by
  obtain ⟨h3, h4⟩ := State.applyAll_offers timing ⟨hb, by rw [hm], by rw [hm], by rw [hm]⟩
  have e1 := congrArg State.mgmt (s.onlySection_applyAll i timing)
  have e2 := congrArg State.mgmt (t.onlySection_applyAll i timing)
  rw [e1, e2, h3, h4, hm]

/-- With nothing staged for a timing, applying changes nothing. -/
theorem State.applyAll_none (s : State) (i : Slot) (timing : StagedTiming)
    (h : ∀ k, ∀ st, ((s.ctx i).bindings.get k).staged = some st → st.timing ≠ timing) : s.applyAll i timing = s := by
  have one : ∀ k, s.applyStaged i timing k = s := by
    intro k
    unfold State.applyStaged
    cases hs : ((s.ctx i).bindings.get k).staged with
    | none => rfl
    | some st => simp only [h k st hs, if_false]
  have e : s.applyAll i timing = ((s.applyStaged i timing .map).applyStaged i timing .curve).applyStaged i timing .plan := rfl
  rw [e, one, one, one]

theorem Bindings.noneAtRest_iff (b : Bindings) :
    b.noneAtRest = true ↔ ∀ k, ∀ st, (b.get k).staged = some st → st.timing ≠ .atRest := by
  simp only [Bindings.noneAtRest, List.all_eq_true, tableKinds]
  constructor
  · intro h k st hs
    have := h k (by cases k <;> simp)
    simp only [hs, bne_iff_ne, ne_eq] at this
    exact this
  · intro h k _
    cases hs : (b.get k).staged with
    | none => rfl
    | some st => simpa using h k st hs

end Sys2Proof.Machine
end

