-- ==== Sys2Proof/Laws/Reads.lean ====
section
/-! SUPPORT. What a read of a performer's tables depends on: its bindings, the blocks, and for a resolution its transpose and
its committed pitch. An update elsewhere leaves the read as it is. -/

namespace Sys2Proof.Machine

theorem State.block_of_blocks {s t : State} (h : t.blocks = s.blocks) : t.block = s.block := by
  funext b
  simp only [State.block, h]

theorem State.activeBlock_congr {s t : State} {i : Slot} (hb : (t.ctx i).bindings = (s.ctx i).bindings)
    (h : t.blocks = s.blocks) (k : TableKind) : t.activeBlock i k = s.activeBlock i k := by
  simp only [State.activeBlock, hb, State.block_of_blocks h]

theorem State.activeMap_congr {s t : State} {i : Slot} (hb : (t.ctx i).bindings = (s.ctx i).bindings)
    (h : t.blocks = s.blocks) : t.activeMap i = s.activeMap i := by
  simp only [State.activeMap, State.activeBlock_congr hb h]

theorem State.activeCurve_congr {s t : State} {i : Slot} (hb : (t.ctx i).bindings = (s.ctx i).bindings)
    (h : t.blocks = s.blocks) : t.activeCurve i = s.activeCurve i := by
  simp only [State.activeCurve, State.activeBlock_congr hb h]

theorem State.activePlan_congr {s t : State} {i : Slot} (hb : (t.ctx i).bindings = (s.ctx i).bindings)
    (h : t.blocks = s.blocks) : t.activePlan i = s.activePlan i := by
  simp only [State.activePlan, State.activeBlock_congr hb h]

theorem State.zoneFor_congr {s t : State} {i : Slot} (hb : (t.ctx i).bindings = (s.ctx i).bindings)
    (h : t.blocks = s.blocks) (pitch : Nat) : t.zoneFor i pitch = s.zoneFor i pitch := by
  simp only [State.zoneFor, State.activePlan_congr hb h]

theorem State.resolve_congr {s t : State} {i : Slot} (hb : (t.ctx i).bindings = (s.ctx i).bindings)
    (h : t.blocks = s.blocks) (hs : (t.ctx i).settings = (s.ctx i).settings) (g : Gesture) :
    t.resolve i g = s.resolve i g := by
  simp only [State.resolve, State.activeMap_congr hb h, hs]

theorem State.choosePitch_congr {s t : State} {i : Slot} (hb : (t.ctx i).bindings = (s.ctx i).bindings)
    (h : t.blocks = s.blocks) (hs : (t.ctx i).settings = (s.ctx i).settings)
    (hc : (t.ctx i).committedPitch = (s.ctx i).committedPitch) (g : Gesture) : t.choosePitch i g = s.choosePitch i g := by
  simp only [State.choosePitch, State.resolve_congr hb h hs, State.defaultNote, State.activeMap_congr hb h, hs, hc]

/-- The curve of a performer after a change of its context that keeps the bindings. -/
theorem State.activeCurve_setCtx {s : State} {i : Slot} {c : Context} (h : c.bindings = (s.ctx i).bindings) :
    (s.setCtx i c).activeCurve i = s.activeCurve i :=
  State.activeCurve_congr (by simpa using h) rfl

/-- A curve is read through an active binding. -/
theorem State.activeCurve_bound {s : State} {i : Slot} {c : Curve} (h : s.activeCurve i = some c) :
    (s.ctx i).bindings.curve.active.isSome = true := by
  cases hb : (s.ctx i).bindings.curve.active with
  | none => simp [State.activeCurve, State.activeBlock, Bindings.get, hb] at h
  | some b => rfl

end Sys2Proof.Machine
end

