-- ==== Sys2Proof/Laws/Notes.lean ====
section
/-! SUPPORT. What the requests of the Voice Planner leave behind: an allocation, the requests of a note's layers, a note start, a
retarget of the glide and a transition, each with what it does to the performer's own context and to the rest. -/

namespace Sys2Proof.Machine

/-! ### Searching -/

/-- The best element of a list is in it. -/
theorem best_mem {α : Type} (b : α → α → Bool) (l : List α) (x : α) (h : best b l = some x) : x ∈ l := by
  induction l generalizing x with
  | nil => simp [best] at h
  | cons y ys ih =>
    unfold best at h
    cases hb : best b ys with
    | none => simp [hb] at h; simp [h]
    | some z =>
      simp only [hb] at h
      split at h
      · cases h; exact List.mem_cons_of_mem _ (ih _ hb)
      · cases h; simp

/-- Only an empty list has no best element. -/
theorem best_eq_none {α : Type} (b : α → α → Bool) (l : List α) : best b l = none ↔ l = [] := by
  cases l with
  | nil => simp [best]
  | cons x xs => unfold best; cases best b xs <;> simp; split <;> simp

@[simp] theorem mem_engineVoices (e : Nat) (v : VoiceId) : v ∈ engineVoices e ↔ (engineOf v).val = e := by
  simp [engineVoices, voiceIds]

/-! ### Voice records -/

/-- A set-flag request has no effect on a record that is not SOUNDING (R84; log entry 18). -/
theorem Voice.flagged_of_not_sounding (r : Voice) (x : UpdateFlag) (h : r.state ≠ .sounding) : r.flagged x = r := by
  cases r with
  | mk st => cases st <;> simp_all [Voice.flagged]

/-- A flag set on the note's voices under a condition (R60). -/
theorem State.flagIf_eq (s : State) (i : Slot) (x : UpdateFlag) (c : Bool) :
    s.flagIf i x c = s.mapVoices fun v r => if c = true ∧ v ∈ (s.ctx i).noteVoices then r.flagged x else r := by
  cases c
  · simp [State.flagIf, State.mapVoices_id]
  · simp [State.flagIf, State.flagVoices_eq]

theorem State.flagVoices_ctx (s : State) (i j : Slot) (x : UpdateFlag) (p : VoiceId → Bool) :
    (s.flagVoices i x p).ctx j = s.ctx j := by
  rw [State.flagVoices_eq]; rfl

/-! ### Allocation (R85 to R89) -/

/-- What a steal does to the old owner: nothing, unless the voice sounds under one, who loses it (R87). -/
theorem State.dispossess_cases (s : State) (v : VoiceId) :
    s.dispossess v = s ∨ ∃ o, (s.voice v).state = .sounding ∧ (s.voice v).owner = some o ∧
      s.dispossess v = s.setCtx o ((s.ctx o).lose (· == v)) := by
  unfold State.dispossess
  split
  · next o h1 h2 => exact .inr ⟨o, h1, h2, rfl⟩
  · exact .inl rfl

/-- A steal changes one voice record (R87). -/
theorem State.steal_voice (s : State) (v w : VoiceId) (i : Slot) (index : Nat) (layer : Layer) (velocity : Nat) :
    (s.steal v i index layer velocity).voice w =
      if w = v then (s.voice v).stolen i index layer velocity s.timebase else s.voice w := by
  have h : ∀ w, (s.dispossess v).voice w = s.voice w := by
    intro w
    rcases s.dispossess_cases v with e | ⟨o, _, _, e⟩ <;> rw [e]
    rfl
  unfold State.steal
  simp only [State.updVoice_eq, State.voice_setVoice, h]

/-- A steal from another performer, or of a voice nobody owns, leaves the requester's context. -/
theorem State.steal_ctx (s : State) (v : VoiceId) (i : Slot) (index : Nat) (layer : Layer) (velocity : Nat)
    (h : ∀ o, (s.voice v).state = .sounding → (s.voice v).owner = some o → o ≠ i) :
    (s.steal v i index layer velocity).ctx i = s.ctx i := by
  unfold State.steal
  simp only [State.updVoice_eq, State.ctx_setVoice]
  rcases s.dispossess_cases v with e | ⟨o, h1, h2, e⟩
  · rw [e]
  · rw [e, State.ctx_setCtx_ne _ _ _ _ (Ne.symm (h o h1 h2))]

theorem State.onlySection_steal (s : State) (v : VoiceId) (i : Slot) (index : Nat) (layer : Layer) (velocity : Nat) :
    s.onlySection (s.steal v i index layer velocity) := by
  unfold State.steal
  rcases s.dispossess_cases v with e | ⟨o, _, _, e⟩ <;> rw [e]
  · exact State.onlySection_setVoice _ _ _
  · exact (State.onlySection_setCtx _ _ _).trans (State.onlySection_setVoice _ _ _)

/-- An allocation request leaves the requester's context as it is. -/
theorem State.allocate_ctx (s : State) (i : Slot) (index : Nat) (layer : Layer) (velocity : Nat) :
    (s.allocate i index layer velocity).2.ctx i = s.ctx i := by
  unfold State.allocate
  split
  · simp
  · split
    · next v hv =>
      refine State.steal_ctx _ _ _ _ _ _ ?_
      have := best_mem _ _ _ hv
      simp only [List.mem_filter, decide_eq_true_eq] at this
      intro o h1
      simp [this.2] at h1
    · split
      · next v hv =>
        refine State.steal_ctx _ _ _ _ _ _ ?_
        have := (List.mem_filter.1 (best_mem _ _ _ hv)).2
        intro o h1 h2
        simp only [State.stealable, h1, h2, Bool.and_eq_true, decide_eq_true_eq] at this
        exact this.2.1
      · simp

theorem State.allocate_onlySection (s : State) (i : Slot) (index : Nat) (layer : Layer) (velocity : Nat) :
    s.onlySection (s.allocate i index layer velocity).2 := by
  unfold State.allocate
  split
  · exact State.onlySection_setVoice _ _ _
  · split
    · exact State.onlySection_steal _ _ _ _ _ _
    · split
      · exact State.onlySection_steal _ _ _ _ _ _
      · exact State.onlySection_offer _ _

/-- The requests of a list of layers: the note's voice list grows by one entry for each (R66, R74). -/
theorem State.allocateLayers_spec (layers : List Layer) (s : State) (i : Slot) (velocity index : Nat) :
    s.onlySection (s.allocateLayers i velocity index layers) ∧
      ∃ vs : List (Option VoiceId), vs.length = layers.length ∧
        (s.allocateLayers i velocity index layers).ctx i =
          (s.ctx i).withNote fun n => { n with voices := n.voices ++ vs } := by
  induction layers generalizing s index with
  | nil => exact ⟨State.onlySection.refl _, [], rfl, by simp [State.allocateLayers, Context.withNote]⟩
  | cons l ls ih =>
    obtain ⟨h1, vs, h2, h3⟩ := ih (s.allocateLayer i velocity index l) (index + 1)
    have e : s.allocateLayer i velocity index l = (s.allocate i index l velocity).2.updCtx i (·.withNote fun n =>
        { n with voices := n.voices ++ [(s.allocate i index l velocity).1] }) := rfl
    refine ⟨State.onlySection.trans ?_ h1, (s.allocate i index l velocity).1 :: vs, by simp [h2], ?_⟩
    · rw [e]
      exact (State.allocate_onlySection _ _ _ _ _).trans (State.onlySection_setCtx _ _ _)
    · show (State.allocateLayers _ i velocity (index + 1) ls).ctx i = _
      rw [h3, e]
      simp only [State.updCtx_eq, State.ctx_setCtx_same, State.allocate_ctx, Context.withNote]
      cases (s.ctx i).note <;> simp

/-! ### Note start (R54, R66) -/

/-- What the Voice Planner's note start leaves of the performer's context. -/
theorem State.plannerStart_spec (s : State) (i : Slot) (pitch velocity : Nat) :
    s.onlySection (s.plannerStart i pitch velocity) ∧
      ∃ vs : List (Option VoiceId), vs.length = (layersOf (s.zoneFor i pitch)).length ∧
        (s.plannerStart i pitch velocity).ctx i = { s.ctx i with
          note := some ⟨pitch, (s.zoneFor i pitch).map (·.1), velocity, vs⟩
          glide := .at pitch
          timers := { (s.ctx i).timers with glideStep := none } } := by
  unfold State.plannerStart
  obtain ⟨h1, vs, h2, h3⟩ := State.allocateLayers_spec (layersOf (s.zoneFor i pitch))
    (s.updCtx i (·.beginNote pitch velocity ((s.zoneFor i pitch).map (·.1)))) i velocity 1
  refine ⟨(State.onlySection_setCtx _ _ _).trans h1, vs, h2, ?_⟩
  rw [h3]
  simp [Context.withNote, Context.beginNote]

/-- What a note start leaves of the performer's context, under a curve. -/
theorem State.noteStart_spec (s : State) (i : Slot) (attackTime : Nat) (g : Gesture) (curve : Curve)
    (hc : s.activeCurve i = some curve) :
    s.onlySection (s.noteStart i attackTime g) ∧
      ∃ vs : List (Option VoiceId), vs.length = (layersOf (s.zoneFor i (s.choosePitch i g))).length ∧
        (s.noteStart i attackTime g).ctx i = { s.ctx i with
          state := .sounding
          onset := none
          committedPitch := some (s.choosePitch i g)
          note := some ⟨s.choosePitch i g, (s.zoneFor i (s.choosePitch i g)).map (·.1), curve.velocity attackTime, vs⟩
          glide := .at (s.choosePitch i g)
          timers := { (s.ctx i).timers with glideStep := none, attack := none } } := by
  unfold State.noteStart
  simp only [hc]
  obtain ⟨h1, vs, h2, h3⟩ := State.plannerStart_spec
    (s.updCtx i ({ · with committedPitch := some (s.choosePitch i g) })) i (s.choosePitch i g) (curve.velocity attackTime)
  have hz : (s.updCtx i ({ · with committedPitch := some (s.choosePitch i g) })).zoneFor i (s.choosePitch i g) =
      s.zoneFor i (s.choosePitch i g) := by
    rw [State.updCtx_eq]
    refine State.zoneFor_congr ?_ ?_ _ <;> simp
  rw [hz] at h2 h3
  refine ⟨((State.onlySection_setCtx _ _ _).trans h1).trans (State.onlySection_setCtx _ _ _), vs, h2, ?_⟩
  rw [State.updCtx_eq _ i (fun c : Context => { c with state := _, onset := _, timers := _ }),
    State.ctx_setCtx_same, h3]
  simp

/-! ### Glide and transition (R69 to R74) -/

theorem GlideCounter.retarget_target (g : GlideCounter) (cents glideTime : Nat) :
    (g.retarget cents glideTime).target = cents := by
  unfold GlideCounter.retarget
  split
  · rfl
  · dsimp only; split <;> rfl

/-- What a retarget leaves of the performer's context. -/
theorem State.retargetGlide_ctx (s : State) (i : Slot) (cents glideTime : Nat) :
    (s.retargetGlide i cents glideTime).ctx i = { s.ctx i with
      glide := (s.ctx i).glide.retarget cents glideTime
      timers := { (s.ctx i).timers with
        glideStep := glideTimerAfter (s.ctx i).glide cents glideTime (s.ctx i).timers.glideStep } } := by
  unfold State.retargetGlide
  dsimp only
  split
  · rw [State.flagVoices_ctx]; simp
  · simp

theorem State.onlySection_retargetGlide (s : State) (i : Slot) (cents glideTime : Nat) :
    s.onlySection (s.retargetGlide i cents glideTime) := by
  unfold State.retargetGlide
  dsimp only
  split
  · exact (State.onlySection_setCtx _ _ _).trans (State.onlySection_flagVoices _ _ _ _)
  · exact State.onlySection_setCtx _ _ _

/-- The retake requests of an in-zone transition change voice records only. -/
theorem State.retakes_spec (l : List VoiceId) (s : State) (velocity : Nat) :
    s.onlySection (forEach l (fun v s => s.retakeIfRestrike v velocity) s) ∧
      (forEach l (fun v s => s.retakeIfRestrike v velocity) s).contexts = s.contexts := by
  induction l generalizing s with
  | nil => exact ⟨State.onlySection.refl _, rfl⟩
  | cons v vs ih =>
    have h : s.onlySection (s.retakeIfRestrike v velocity) ∧ (s.retakeIfRestrike v velocity).contexts = s.contexts := by
      unfold State.retakeIfRestrike
      split
      · split
        · exact ⟨State.onlySection_setVoice _ _ _, rfl⟩
        · exact ⟨State.onlySection.refl _, rfl⟩
      · exact ⟨State.onlySection.refl _, rfl⟩
    have := ih (s.retakeIfRestrike v velocity)
    exact ⟨h.1.trans this.1, this.2.trans h.2⟩

/-- What a different-zone transition leaves of the performer's context. -/
theorem State.differentZone_spec (s : State) (i : Slot) (velocity pitch : Nat) (z : Option (Nat × Zone)) :
    s.onlySection (s.differentZone i velocity pitch z) ∧
      ∃ vs : List (Option VoiceId), (s.differentZone i velocity pitch z).ctx i = { s.ctx i with
        note := some ⟨pitch, z.map (·.1), velocity, vs⟩
        glide := .at pitch
        timers := { (s.ctx i).timers with glideStep := none } } := by
  unfold State.differentZone
  obtain ⟨h1, vs, h2, h3⟩ := State.allocateLayers_spec (layersOf z)
    ((s.endVoices i).updCtx i (·.beginNote pitch velocity (z.map (·.1)))) i velocity 1
  refine ⟨((State.onlySection_endVoices _ _).trans (State.onlySection_setCtx _ _ _)).trans h1, vs, ?_⟩
  rw [h3]
  simp [Context.withNote, Context.beginNote]

/-- What a transition of a note leaves of the performer's context: the note's pitch and the glide's target are the new pitch,
the velocity stays (R69, R70, R74). -/
theorem State.transition_spec (s : State) (i : Slot) (pitch : Nat) (n : NoteRecord) (hn : (s.ctx i).note = some n) :
    s.onlySection (s.transition i pitch) ∧ ∃ zone voices glide timer,
      (s.transition i pitch).ctx i = { s.ctx i with
        note := some ⟨pitch, zone, n.velocity, voices⟩
        glide := glide
        timers := { (s.ctx i).timers with glideStep := timer } } ∧ glide.target = 100 * pitch := by
  unfold State.transition
  simp only [hn]
  split
  · refine ⟨State.onlySection_setCtx _ _ _, n.zone, n.voices,
      { (s.ctx i).glide with current := pitch * 100, target := pitch * 100 }, none, ?_, ?_⟩
    · simp [State.silentToSilent, Context.withNote, hn]
    · simp only; omega
  · split
    · next k k' z h1 h2 h3 =>
      unfold State.inZone
      dsimp only
      have hr := State.retakes_spec ((s.updCtx i (·.withNote ({ · with pitch := pitch }))).ctx i).noteVoices
        (s.updCtx i (·.withNote ({ · with pitch := pitch }))) n.velocity
      refine ⟨((State.onlySection_setCtx _ _ _).trans hr.1).trans (State.onlySection_retargetGlide _ _ _ _), n.zone,
        n.voices, (s.ctx i).glide.retarget (pitch * 100) z.glideTime,
        glideTimerAfter (s.ctx i).glide (pitch * 100) z.glideTime (s.ctx i).timers.glideStep, ?_, ?_⟩
      · rw [State.retargetGlide_ctx, State.ctx_of_contexts hr.2]
        simp [Context.withNote, hn]
      · rw [GlideCounter.retarget_target]; omega
    · next k k' z h1 h2 h3 =>
      obtain ⟨h1, vs, h3⟩ := s.differentZone_spec i n.velocity pitch (some (k', z))
      exact ⟨h1, _, vs, _, _, h3, by simp only [GlideCounter.at]; omega⟩
  · obtain ⟨h1, vs, h3⟩ := s.differentZone_spec i n.velocity pitch none
    exact ⟨h1, _, vs, _, _, h3, by simp only [GlideCounter.at]; omega⟩
  · next k' z h1 h2 =>
    obtain ⟨h1, vs, h3⟩ := s.differentZone_spec i n.velocity pitch (some (k', z))
    exact ⟨h1, _, vs, _, _, h3, by simp only [GlideCounter.at]; omega⟩

end Sys2Proof.Machine
end

