-- ==== Sys2Proof/WellFormed.lean ====
section
/-! DEFINITION. Which commands the links can bring at all. The meanings are total: an ill-formed command is not refused by
`exec`, it is discarded as the link would discard it (R154, R156) or has no effect (R179). -/

namespace Sys2Proof

/-- A frame that an idle line ended: a receiver cuts at 48 bytes, so it has at most 47 (R154). -/
def endedFrameOk (rest : List Byte) : Bool := rest.length + 1 < 48

/-- The parameters of a COMMAND frame: at most 40 bytes (R156, test 4). -/
def paramsOk (params : List Byte) : Bool := params.length ≤ 40

/-- A well-formed command. -/
def Instr.wellFormed : Instr → Bool
  | .gesture _ rest => endedFrameOk rest
  | .settleExpiry _ => true
  | .attackExpiry _ => true
  | .guardExpiry _ => true
  | .silenceExpiry _ => true
  | .phraseExpiry _ => true
  | .glideStepExpiry _ => true
  | .tailTimerExpiry _ => true
  | .hello _ rest => endedFrameOk rest
  | .tailDone _ rest => endedFrameOk rest
  | .hold _ rest => endedFrameOk rest
  | .go _ rest => endedFrameOk rest
  | .quiesceAck _ rest => endedFrameOk rest
  | .selection => true
  | .transmitCompletion => true
  | .command _ rest => endedFrameOk rest
  | .commandStart => true
  | .performerSet _ params => paramsOk params
  | .performerEnable _ params => paramsOk params
  | .performerDisable _ params => paramsOk params
  | .performerRead _ params => paramsOk params
  | .bind _ params => paramsOk params
  | .engineSet _ params => paramsOk params
  | .engineRead _ params => paramsOk params
  | .voiceRead _ params => paramsOk params
  | .arbiterSet _ params => paramsOk params
  | .arbiterRead _ params => paramsOk params
  | .tableErase _ params => paramsOk params
  | .tableWrite _ params => paramsOk params
  | .tableCommit _ params => paramsOk params
  | .tableVerify _ params => paramsOk params
  | .tableBlankCheck _ params => paramsOk params
  | .tableRead _ params => paramsOk params
  | .tableLock _ params => paramsOk params
  | .blockRead _ params => paramsOk params
  | .storeClear _ params => paramsOk params
  | .noticeMaskSet _ params => paramsOk params
  | .reset _ params => paramsOk params
  | .erasureCompletion => true
  | .writeCompletion => true
  | .commitCompletion => true
  | .lockCompletion => true
  | .storeClearBlockCompletion => true
  | .limitExpiry => true
  | .hardReset (.line d) => 10 ≤ d
  | .hardReset .powerOn => true
  | .powerLoss => true
  | .startUp => true
  | .receiverFrameCut _ bytes => 48 ≤ bytes.length

end Sys2Proof
end

