-- ==== Sys2Proof/Laws/PerInstr.lean ====
section
/-! SUPPORT. One statement about every command as syntax, one lemma for each constructor: a well-formed command brings at most
the bytes that a receiver collects before it cuts, and the cut brings as many as make it cut (R154, R156). -/

namespace Sys2Proof.Laws

/-- How many bytes a command is on its link: a frame with its first byte, a console command with the five bytes that a COMMAND
frame has beside the parameters (R162). -/
def linkBytes : Instr → Nat
  | .gesture _ rest => rest.length + 1
  | .hello _ rest => rest.length + 1
  | .tailDone _ rest => rest.length + 1
  | .hold _ rest => rest.length + 1
  | .go _ rest => rest.length + 1
  | .quiesceAck _ rest => rest.length + 1
  | .command _ rest => rest.length + 1
  | .performerSet _ params => params.length + 5
  | .performerEnable _ params => params.length + 5
  | .performerDisable _ params => params.length + 5
  | .performerRead _ params => params.length + 5
  | .bind _ params => params.length + 5
  | .engineSet _ params => params.length + 5
  | .engineRead _ params => params.length + 5
  | .voiceRead _ params => params.length + 5
  | .arbiterSet _ params => params.length + 5
  | .arbiterRead _ params => params.length + 5
  | .tableErase _ params => params.length + 5
  | .tableWrite _ params => params.length + 5
  | .tableCommit _ params => params.length + 5
  | .tableVerify _ params => params.length + 5
  | .tableBlankCheck _ params => params.length + 5
  | .tableRead _ params => params.length + 5
  | .tableLock _ params => params.length + 5
  | .blockRead _ params => params.length + 5
  | .storeClear _ params => params.length + 5
  | .noticeMaskSet _ params => params.length + 5
  | .reset _ params => params.length + 5
  | .receiverFrameCut _ bytes => bytes.length
  | _ => 0

/-- Whether a command is the receiver's cut of a frame. -/
def isCut : Instr → Bool
  | .receiverFrameCut _ _ => true
  | _ => false

/-- A well-formed command fits a frame that is not cut, and only the cut brings more. -/
def OperandsCarried.Statement (i : Instr) : Prop := i.wellFormed = true → decide (48 ≤ linkBytes i) = isCut i

theorem OperandsCarried.frame {rest : List Byte} (h : endedFrameOk rest = true) :
    decide (48 ≤ rest.length + 1) = false := by
  simp only [endedFrameOk, decide_eq_true_eq] at h
  simp only [decide_eq_false_iff_not]
  omega

theorem OperandsCarried.console {params : List Byte} (h : paramsOk params = true) :
    decide (48 ≤ params.length + 5) = false := by
  simp only [paramsOk, decide_eq_true_eq] at h
  simp only [decide_eq_false_iff_not]
  omega

theorem OperandsCarried.cut {bytes : List Byte} (h : decide (48 ≤ bytes.length) = true) :
    decide (48 ≤ bytes.length) = true := h

theorem OperandsCarried.gesture (slot : BitVec 4) (rest : List Byte) :
    OperandsCarried.Statement (.gesture slot rest) :=
  fun h => OperandsCarried.frame h

theorem OperandsCarried.settleExpiry (slot : Slot) : OperandsCarried.Statement (.settleExpiry slot) :=
  fun _ => rfl

theorem OperandsCarried.attackExpiry (slot : Slot) : OperandsCarried.Statement (.attackExpiry slot) :=
  fun _ => rfl

theorem OperandsCarried.guardExpiry (slot : Slot) : OperandsCarried.Statement (.guardExpiry slot) :=
  fun _ => rfl

theorem OperandsCarried.silenceExpiry (slot : Slot) : OperandsCarried.Statement (.silenceExpiry slot) :=
  fun _ => rfl

theorem OperandsCarried.phraseExpiry (slot : Slot) : OperandsCarried.Statement (.phraseExpiry slot) :=
  fun _ => rfl

theorem OperandsCarried.glideStepExpiry (slot : Slot) : OperandsCarried.Statement (.glideStepExpiry slot) :=
  fun _ => rfl

theorem OperandsCarried.tailTimerExpiry (voice : VoiceId) : OperandsCarried.Statement (.tailTimerExpiry voice) :=
  fun _ => rfl

theorem OperandsCarried.hello (engine : BitVec 4) (rest : List Byte) :
    OperandsCarried.Statement (.hello engine rest) :=
  fun h => OperandsCarried.frame h

theorem OperandsCarried.tailDone (engine : BitVec 4) (rest : List Byte) :
    OperandsCarried.Statement (.tailDone engine rest) :=
  fun h => OperandsCarried.frame h

theorem OperandsCarried.hold (engine : BitVec 4) (rest : List Byte) : OperandsCarried.Statement (.hold engine rest) :=
  fun h => OperandsCarried.frame h

theorem OperandsCarried.go (engine : BitVec 4) (rest : List Byte) : OperandsCarried.Statement (.go engine rest) :=
  fun h => OperandsCarried.frame h

theorem OperandsCarried.quiesceAck (engine : BitVec 4) (rest : List Byte) :
    OperandsCarried.Statement (.quiesceAck engine rest) :=
  fun h => OperandsCarried.frame h

theorem OperandsCarried.selection : OperandsCarried.Statement (.selection) :=
  fun _ => rfl

theorem OperandsCarried.transmitCompletion : OperandsCarried.Statement (.transmitCompletion) :=
  fun _ => rfl

theorem OperandsCarried.command (slot : BitVec 4) (rest : List Byte) :
    OperandsCarried.Statement (.command slot rest) :=
  fun h => OperandsCarried.frame h

theorem OperandsCarried.commandStart : OperandsCarried.Statement (.commandStart) :=
  fun _ => rfl

theorem OperandsCarried.performerSet (tag : Byte) (params : List Byte) :
    OperandsCarried.Statement (.performerSet tag params) :=
  fun h => OperandsCarried.console h

theorem OperandsCarried.performerEnable (tag : Byte) (params : List Byte) :
    OperandsCarried.Statement (.performerEnable tag params) :=
  fun h => OperandsCarried.console h

theorem OperandsCarried.performerDisable (tag : Byte) (params : List Byte) :
    OperandsCarried.Statement (.performerDisable tag params) :=
  fun h => OperandsCarried.console h

theorem OperandsCarried.performerRead (tag : Byte) (params : List Byte) :
    OperandsCarried.Statement (.performerRead tag params) :=
  fun h => OperandsCarried.console h

theorem OperandsCarried.bind (tag : Byte) (params : List Byte) : OperandsCarried.Statement (.bind tag params) :=
  fun h => OperandsCarried.console h

theorem OperandsCarried.engineSet (tag : Byte) (params : List Byte) :
    OperandsCarried.Statement (.engineSet tag params) :=
  fun h => OperandsCarried.console h

theorem OperandsCarried.engineRead (tag : Byte) (params : List Byte) :
    OperandsCarried.Statement (.engineRead tag params) :=
  fun h => OperandsCarried.console h

theorem OperandsCarried.voiceRead (tag : Byte) (params : List Byte) :
    OperandsCarried.Statement (.voiceRead tag params) :=
  fun h => OperandsCarried.console h

theorem OperandsCarried.arbiterSet (tag : Byte) (params : List Byte) :
    OperandsCarried.Statement (.arbiterSet tag params) :=
  fun h => OperandsCarried.console h

theorem OperandsCarried.arbiterRead (tag : Byte) (params : List Byte) :
    OperandsCarried.Statement (.arbiterRead tag params) :=
  fun h => OperandsCarried.console h

theorem OperandsCarried.tableErase (tag : Byte) (params : List Byte) :
    OperandsCarried.Statement (.tableErase tag params) :=
  fun h => OperandsCarried.console h

theorem OperandsCarried.tableWrite (tag : Byte) (params : List Byte) :
    OperandsCarried.Statement (.tableWrite tag params) :=
  fun h => OperandsCarried.console h

theorem OperandsCarried.tableCommit (tag : Byte) (params : List Byte) :
    OperandsCarried.Statement (.tableCommit tag params) :=
  fun h => OperandsCarried.console h

theorem OperandsCarried.tableVerify (tag : Byte) (params : List Byte) :
    OperandsCarried.Statement (.tableVerify tag params) :=
  fun h => OperandsCarried.console h

theorem OperandsCarried.tableBlankCheck (tag : Byte) (params : List Byte) :
    OperandsCarried.Statement (.tableBlankCheck tag params) :=
  fun h => OperandsCarried.console h

theorem OperandsCarried.tableRead (tag : Byte) (params : List Byte) :
    OperandsCarried.Statement (.tableRead tag params) :=
  fun h => OperandsCarried.console h

theorem OperandsCarried.tableLock (tag : Byte) (params : List Byte) :
    OperandsCarried.Statement (.tableLock tag params) :=
  fun h => OperandsCarried.console h

theorem OperandsCarried.blockRead (tag : Byte) (params : List Byte) :
    OperandsCarried.Statement (.blockRead tag params) :=
  fun h => OperandsCarried.console h

theorem OperandsCarried.storeClear (tag : Byte) (params : List Byte) :
    OperandsCarried.Statement (.storeClear tag params) :=
  fun h => OperandsCarried.console h

theorem OperandsCarried.noticeMaskSet (tag : Byte) (params : List Byte) :
    OperandsCarried.Statement (.noticeMaskSet tag params) :=
  fun h => OperandsCarried.console h

theorem OperandsCarried.reset (tag : Byte) (params : List Byte) : OperandsCarried.Statement (.reset tag params) :=
  fun h => OperandsCarried.console h

theorem OperandsCarried.erasureCompletion : OperandsCarried.Statement (.erasureCompletion) :=
  fun _ => rfl

theorem OperandsCarried.writeCompletion : OperandsCarried.Statement (.writeCompletion) :=
  fun _ => rfl

theorem OperandsCarried.commitCompletion : OperandsCarried.Statement (.commitCompletion) :=
  fun _ => rfl

theorem OperandsCarried.lockCompletion : OperandsCarried.Statement (.lockCompletion) :=
  fun _ => rfl

theorem OperandsCarried.storeClearBlockCompletion : OperandsCarried.Statement (.storeClearBlockCompletion) :=
  fun _ => rfl

theorem OperandsCarried.limitExpiry : OperandsCarried.Statement (.limitExpiry) :=
  fun _ => rfl

theorem OperandsCarried.hardReset (cause : ResetCause) : OperandsCarried.Statement (.hardReset cause) :=
  fun _ => rfl

theorem OperandsCarried.powerLoss : OperandsCarried.Statement (.powerLoss) :=
  fun _ => rfl

theorem OperandsCarried.startUp : OperandsCarried.Statement (.startUp) :=
  fun _ => rfl

theorem OperandsCarried.receiverFrameCut (link : Link) (bytes : List Byte) :
    OperandsCarried.Statement (.receiverFrameCut link bytes) :=
  fun h => OperandsCarried.cut h

end Sys2Proof.Laws
end

