-- ==== Sys2Proof/Laws/Restart.lean ====
section
/-! SUPPORT. The staged bindings of several slots, the beginning of a quiesce at the contexts, and the end of a quiesce as the
statements say it. -/

namespace Sys2Proof.Machine

/-! ### Staged AT REST bindings of several slots (R146, R150) -/

@[simp] theorem State.applyAll_mask (s : State) (i : Slot) (timing : StagedTiming) :
    (s.applyAll i timing).mgmt.mask = s.mgmt.mask := by rw [s.onlySection_applyAll i timing]

/-- Applying slot by slot changes the bindings of those slots and offers notices, nothing else. -/
theorem forEach_applyAll (l : List Slot) (s : State) (hl : l.Nodup) :
    let t := forEach l (fun i s => s.applyAll i .atRest) s
    s.onlySection t ∧ t.voices = s.voices ∧
      ∀ i, t.ctx i =
        if i ∈ l then { s.ctx i with bindings := (s.ctx i).bindings.appliedAll .atRest } else s.ctx i := by
  induction l generalizing s with
  | nil => exact ⟨State.onlySection.refl _, rfl, fun i => by simp [forEach]⟩
  | cons x xs ih =>
    rw [List.nodup_cons] at hl
    obtain ⟨h1, h2, h3⟩ := ih (s.applyAll x .atRest) hl.2
    refine ⟨(s.onlySection_applyAll x .atRest).trans h1, h2.trans (s.applyAll_voices x .atRest), fun i => (h3 i).trans ?_⟩
    by_cases hx : i = x
    · subst hx
      simp [hl.1, State.applyAll_ctx]
    · simp only [State.applyAll_ctx_ne _ _ _ _ hx, List.mem_cons, hx, false_or]

/-- The notices offered by applying slot by slot depend on the bindings of those slots, the mask and the notice queue. -/
theorem forEach_applyAll_offers (l : List Slot) (s t : State) (hl : l.Nodup)
    (hb : ∀ i ∈ l, (s.ctx i).bindings = (t.ctx i).bindings) (hm : s.mgmt.mask = t.mgmt.mask)
    (hn : s.mgmt.notices = t.mgmt.notices) (hd : s.mgmt.noticesDropped = t.mgmt.noticesDropped) :
    let a := forEach l (fun i s => s.applyAll i .atRest) s
    let b := forEach l (fun i s => s.applyAll i .atRest) t
    a.mgmt.notices = b.mgmt.notices ∧ a.mgmt.noticesDropped = b.mgmt.noticesDropped := by
  induction l generalizing s t with
  | nil => exact ⟨hn, hd⟩
  | cons x xs ih =>
    rw [List.nodup_cons] at hl
    have h := State.applyAll_offers (s := s) (t := t) (i := x) .atRest ⟨hb x (by simp), hm, hn, hd⟩
    refine ih _ _ hl.2 (fun i hi => ?_) (by rw [State.applyAll_mask, State.applyAll_mask, hm]) h.1 h.2
    have hx : i ≠ x := fun e => hl.1 (e ▸ hi)
    rw [State.applyAll_ctx_ne _ _ _ _ hx, State.applyAll_ctx_ne _ _ _ _ hx]
    exact hb i (by simp [hi])

/-! ### The beginning of a quiesce at the contexts (R175, step 2) -/

/-- A context whose note or onset a quiesce has given up: READY, the phrase timer started, staged AT REST bindings applied. -/
def Context.quieted (c : Context) : Context :=
  { c with
    state := .ready
    onset := none
    note := none
    candidate := false
    bindings := c.bindings.appliedAll .atRest
    timers := { c.timers with
      settle := none
      attack := none
      glideStep := none
      phrase := Timer.start (64 * c.settings.phraseGap) } }

/-- The beginning of a quiesce at one context: an onset or a note is given up, in the other states nothing happens. -/
theorem State.quiesceContext_spec (s : State) (i : Slot) :
    let t := s.quiesceContext i
    s.onlySection t ∧
      (∀ v, t.voice v = if (s.ctx i).state.active = true ∧ v ∈ (s.ctx i).noteVoices then (s.voice v).ended s.timebase
        else s.voice v) ∧
      (∀ j, j ≠ i → t.ctx j = s.ctx j) ∧
      t.ctx i = if (s.ctx i).state.active = true then (s.ctx i).quieted else s.ctx i := by
  intro t
  by_cases h : (s.ctx i).state.active = true
  · have e : t = (s.abandon i).enterReady i := by simp [t, State.quiesceContext, h]
    rw [e, State.enterReady]
    refine ⟨?_, fun v => ?_, fun j hj => ?_, ?_⟩
    · exact (State.onlySection_abandon _ i).trans ((State.onlySection_setCtx _ _ _).trans (State.onlySection_applyAll _ _ _))
    · rw [State.voice_of_voices (State.applyAll_voices _ _ _), State.abandon_eq]
      simp [h]
    · rw [State.applyAll_ctx_ne _ _ _ _ hj, State.abandon_eq]
      simp [State.ctx_setCtx_ne, hj]
    · rw [State.applyAll_ctx, State.abandon_eq]
      simp [h, Context.quieted, Context.startPhrase, Context.withTimers]
  · have e : t = s := by simp [t, State.quiesceContext, h]
    rw [e]
    exact ⟨State.onlySection.refl _, fun v => by simp [h], fun _ _ => rfl, by simp [h]⟩

/-! ### The end of a quiesce (R177, R178) -/

@[simp] theorem State.engine_demand (s : State) (x : EngineSet) (f : Control) (e : EngineId) :
    (s.demand x f).engine e = if EngineSet.has x e then { s.engine e with pendingControl := some f } else s.engine e := by
  simp only [State.demand, State.engine_mapEngines]

@[simp] theorem State.voiceExists_demand (s : State) (x : EngineSet) (f : Control) (v : VoiceId) :
    (s.demand x f).voiceExists v = s.voiceExists v := by
  simp only [State.voiceExists, State.engine_demand]
  split <;> rfl

/-- The effects of the RESET's kind with a hushed set, the record IDLE again: what the statements call a reset (R178). -/
theorem State.resetEffects_resetBy (s : State) (kind : ResetKind) (hushed : EngineSet) (hk : s.quiesce.kind = some kind) :
    s.resetBy (((s.demand hushed .hush).resetEffects).setQuiesce .idle) kind hushed := by
  have hk' : (s.demand hushed .hush).quiesce.kind = some kind := hk
  cases kind with
  | full =>
    simp only [State.resetEffects, hk', State.fullEffects]
    refine ⟨rfl, fun i => by simp, fun v => by simp, fun e => ?_, rfl, rfl, rfl, rfl⟩
    simp only [State.engine_setQuiesce, State.engine_setMgmt, State.engine_setArbiter, State.engine_mapEngines,
      State.engine_mapVoices, State.engine_mapContexts, State.engine_demand]
    split <;> rfl
  | sectionOnly =>
    simp only [State.resetEffects, hk', State.sectionEffects]
    have applied := forEach_applyAll slots ((s.demand hushed .hush).mapContexts fun _ c => c.afterSection) (by decide)
    have offers := forEach_applyAll_offers slots ((s.demand hushed .hush).mapContexts fun _ c => c.afterSection) s (by decide)
      (fun i _ => by simp [Context.afterSection, State.demand]) rfl rfl rfl
    generalize forEach slots (fun i s => s.applyAll i .atRest)
      ((s.demand hushed .hush).mapContexts fun _ c => c.afterSection) = w at applied offers ⊢
    obtain ⟨rest, voices, contexts⟩ := applied
    refine ⟨?_, fun i => ?_, fun v => ?_, fun e => ?_, by rw [rest]; rfl, ?_, ?_, ?_⟩
    · unfold State.onlySection at rest
      rw [rest]
      simp [State.setQuiesce, State.mapVoices, State.demand, State.mapEngines, State.mapContexts]
    · simp only [State.ctx_setQuiesce, State.ctx_mapVoices, contexts]
      simp [slots, Context.afterSection, State.demand]
      cases (s.ctx i).state <;> exact ⟨rfl, rfl, rfl⟩
    · simp only [State.voice_setQuiesce, State.voice_mapVoices, show w.voice v = s.voice v from State.voice_of_voices voices v]
      simp [Voice.emptied, Voice.letGo]
    · have he : w.engine e = (s.demand hushed .hush).engine e := by rw [rest]; rfl
      simp only [State.engine_setQuiesce, State.engine_mapVoices, he, State.engine_demand]
      split <;> rfl
    · simp only [State.setQuiesce_mgmt, State.mapVoices_mgmt, State.atRestApplied, List.filter_true]
      exact offers.1
    · simp only [State.setQuiesce_mgmt, State.mapVoices_mgmt, State.atRestApplied, List.filter_true]
      exact offers.2
    · simp only [State.setQuiesce_mgmt, State.mapVoices_mgmt]
      rw [rest]
      rfl

/-- A reset does not depend on the quiesce record it ends. -/
theorem State.resetBy_setQuiesce {s t : State} {q : Quiesce} {kind : ResetKind} {hushed : EngineSet}
    (h : (s.setQuiesce q).resetBy t kind hushed) : s.resetBy t kind hushed := by
  obtain ⟨h1, h2⟩ := h
  refine ⟨h1, ?_⟩
  cases kind with
  | full => exact h2
  | sectionOnly =>
    obtain ⟨a, b, c, d, e, f, g⟩ := h2
    have offers := forEach_applyAll_offers (slots.filter fun _ => true) (s.setQuiesce q) s (by decide) (fun _ _ => rfl)
      rfl rfl rfl
    refine ⟨a, b, c, d, ?_, ?_, g⟩
    · rw [e]; unfold State.atRestApplied; exact offers.1
    · rw [f]; unfold State.atRestApplied; exact offers.2

/-- The end of a quiesce is the reset's effects and the reply of the RESET (R177, R178). -/
theorem State.quiesceEnd_spec (s : State) (kind : ResetKind) (hushed : EngineSet) (forced : Bool) (c : Cmd)
    (earlier : List ReplyEntry) (hk : s.quiesce.kind = some kind)
    (hr : s.mgmt.replies = earlier ++ [⟨c.tag, c.code, none⟩]) (he : ∀ r ∈ earlier, r.result ≠ none) :
    ∃ t, s.resetBy t kind hushed ∧
      s.quiesceEnd forced hushed = t.finished earlier c [if forced then 1 else 0, hushed.setWidth 8] := by
  have h := s.resetEffects_resetBy kind hushed hk
  refine ⟨_, h, ?_⟩
  have hm : (((s.demand hushed .hush).resetEffects).setQuiesce .idle).mgmt.replies = s.mgmt.replies := by rw [h.1]
  simp only [State.quiesceEnd, State.buildReply, hm, hr, buildHeld_newest _ _ _ _ he, State.finished, State.setMgmt,
    engineSetByte]
  rfl

end Sys2Proof.Machine
end

