-- ==== Sys2Proof/Laws/Store.lean ====
section
/-! SUPPORT. Table Memory: what a write leaves at every position, and that every operation of the store keeps the canonical
form of a block's positions and of the whole memory (log entry 19). -/

namespace Sys2Proof.Machine

/-! ### Reading after writing -/

/-- A written position reads as the image written, every other position as before. -/
theorem lookup_putCell (p q : Nat) (x : Image) (cells : List Cell) :
    (putCell p x cells).lookup q = if q = p then some x else cells.lookup q := by
  have head : ∀ (k : Nat) (y : Image) (l : List Cell),
      ((k, y) :: l).lookup q = if q = k then some y else l.lookup q := by
    intro k y l
    by_cases h : q = k
    · simp [List.lookup, h]
    · have : (q == k) = false := by simpa using h
      simp [List.lookup, h, this]
  induction cells with
  | nil => rw [putCell, head]
  | cons c cs ih =>
    obtain ⟨k, y⟩ := c
    unfold putCell
    dsimp only
    split
    · rw [head]
    · split
      · rename_i h₂
        subst h₂
        rw [head, head]
        split <;> rfl
      · rename_i h₂
        rw [head, ih, head]
        by_cases h : q = k
        · subst h
          simp [Ne.symm h₂]
        · simp [h]

/-- A run reads as its images at its positions, every other position as before. -/
theorem lookup_putRun (first q : Nat) (images : List Image) (cells : List Cell) :
    (putRun first images cells).lookup q =
      if first ≤ q ∧ q < first + images.length then images[q - first]? else cells.lookup q := by
  induction images generalizing first cells with
  | nil =>
    have : ¬ (first ≤ q ∧ q < first) := by omega
    simp [putRun, this]
  | cons x xs ih =>
    rw [putRun, ih, lookup_putCell]
    by_cases h₁ : q = first
    · subst h₁
      have : ¬ (q + 1 ≤ q ∧ q < q + 1 + xs.length) := by omega
      simp
    · by_cases h₂ : first + 1 ≤ q ∧ q < first + 1 + xs.length
      · have h₃ : first ≤ q ∧ q < first + (x :: xs).length := by simp; omega
        have h₄ : q - first = (q - (first + 1)) + 1 := by omega
        rw [if_pos h₂, if_pos h₃, h₄, List.getElem?_cons_succ]
      · have h₃ : ¬ (first ≤ q ∧ q < first + (x :: xs).length) := by simp; omega
        rw [if_neg h₂, if_neg h₃, if_neg h₁]

/-! ### The canonical form of a block's positions -/

theorem cellsWf_iff (cells : List Cell) :
    cellsWf cells = true ↔ cells.Pairwise (fun a b => a.1 < b.1) ∧ ∀ c ∈ cells, c.1 < 128 := by
  simp [cellsWf]

theorem cellsWf_nil : cellsWf [] = true := by simp [cellsWf]

/-- A position of a list after a write was there before or is the one written. -/
theorem mem_putCell {p : Nat} {x : Image} {cells : List Cell} {c : Cell} (h : c ∈ putCell p x cells) :
    c.1 = p ∨ c ∈ cells := by
  induction cells with
  | nil => simp only [putCell, List.mem_singleton] at h; subst h; exact .inl rfl
  | cons d ds ih =>
    unfold putCell at h
    split at h
    · rcases List.mem_cons.1 h with h | h
      · subst h; exact .inl rfl
      · exact .inr h
    · split at h
      · rcases List.mem_cons.1 h with h | h
        · subst h; exact .inl rfl
        · exact .inr (List.mem_cons_of_mem _ h)
      · rcases List.mem_cons.1 h with h | h
        · exact .inr (by simp [h])
        · exact (ih h).imp id (List.mem_cons_of_mem _)

/-- A write of a position below 128 keeps the canonical form. -/
theorem cellsWf_putCell {p : Nat} {x : Image} {cells : List Cell} (h : cellsWf cells = true) (hp : p < 128) :
    cellsWf (putCell p x cells) = true := by
  rw [cellsWf_iff] at h ⊢
  refine ⟨?_, fun c hc => (mem_putCell hc).elim (fun e => by omega) (h.2 c)⟩
  obtain ⟨h₁, -⟩ := h
  induction cells with
  | nil => simp [putCell]
  | cons d ds ih =>
    rw [List.pairwise_cons] at h₁
    unfold putCell
    split
    · rename_i hlt
      refine List.pairwise_cons.2 ⟨fun c hc => ?_, List.pairwise_cons.2 h₁⟩
      rcases List.mem_cons.1 hc with hc | hc
      · subst hc; exact hlt
      · exact Nat.lt_trans hlt (h₁.1 c hc)
    · split
      · rename_i heq
        refine List.pairwise_cons.2 ⟨fun c hc => ?_, h₁.2⟩
        simpa [heq] using h₁.1 c hc
      · refine List.pairwise_cons.2 ⟨fun c hc => ?_, ih h₁.2⟩
        rcases mem_putCell hc with hc | hc
        · omega
        · exact h₁.1 c hc

/-- A run that ends below 128 keeps the canonical form. -/
theorem cellsWf_putRun {first : Nat} {images : List Image} {cells : List Cell} (h : cellsWf cells = true)
    (hp : first + images.length ≤ 128) : cellsWf (putRun first images cells) = true := by
  induction images generalizing first cells with
  | nil => exact h
  | cons x xs ih =>
    simp only [List.length_cons] at hp
    exact ih (cellsWf_putCell h (by omega)) (by omega)

/-! ### The completions of the store on one block -/

theorem cellsWf_erased (b : Block) : cellsWf b.erased.cells = true := cellsWf_nil

theorem cellsWf_afterWrite {b : Block} {first : Nat} {images : List Image} (h : cellsWf b.cells = true)
    (hp : first + images.length ≤ 128) : cellsWf (b.afterWrite first images).cells = true := cellsWf_putRun h hp

@[simp] theorem Block.cells_committed (b : Block) : b.committed.cells = b.cells := rfl

@[simp] theorem Block.cells_lockedNow (b : Block) : b.lockedNow.cells = b.cells := rfl

@[simp] theorem Block.cells_interrupted (b : Block) : b.interrupted.cells = b.cells := rfl

@[simp] theorem Block.cells_begun (b : Block) (op : StoreOp) : (b.begun op).cells = b.cells := by cases op <;> rfl

/-! ### The whole memory -/

theorem Memory.wf_iff (m : Memory) : Memory.wf m = true ↔ ∀ b : BlockId, cellsWf m[b].cells = true := by
  simp [Memory.wf, blockIds]

/-- A memory in canonical form with one block replaced by a block in canonical form. -/
theorem Memory.wf_set {m : Memory} {b : BlockId} {r : Block} (h : Memory.wf m = true) (hr : cellsWf r.cells = true) :
    Memory.wf (m.set b r) = true := by
  rw [Memory.wf_iff] at h ⊢
  intro x
  by_cases hx : x = b
  · subst hx; simpa using hr
  · have : (b : Nat) ≠ x := fun e => hx (Fin.ext e.symm)
    simpa [Vector.getElem_set_ne, this] using h x

/-- Every update of a block that keeps its canonical form keeps that of the memory. -/
theorem Memory.wf_updBlock {s : State} {b : BlockId} {f : Block → Block} (h : Memory.wf s.blocks = true)
    (hf : cellsWf (f (s.block b)).cells = true) : Memory.wf (s.updBlock b f).blocks = true := Memory.wf_set h hf

/-- The start of an operation keeps the canonical form. -/
theorem Memory.wf_beginStore {s : State} {b : BlockId} {op : StoreOp} (h : Memory.wf s.blocks = true) :
    Memory.wf (s.beginStore b op).blocks = true :=
  Memory.wf_set h (by simpa [State.block] using (Memory.wf_iff _).1 h b)

/-- STORE CLEAR keeps the canonical form at the block it reaches. -/
theorem Memory.wf_clearReach {s : State} {b : BlockId} (erased : Nat) (worn : BlockSet) (h : Memory.wf s.blocks = true) :
    Memory.wf (s.clearReach b erased worn).1.blocks = true := by
  have h' : Memory.wf (s.updBlock b ({ · with locked := false })).blocks = true :=
    Memory.wf_set h (by simpa [State.block] using (Memory.wf_iff _).1 h b)
  unfold State.clearReach
  dsimp only
  split
  · exact Memory.wf_beginStore h'
  · exact h'

/-- The completion of an erasure keeps the canonical form. -/
theorem Memory.wf_erased {s : State} {b : BlockId} (h : Memory.wf s.blocks = true) :
    Memory.wf (s.updBlock b Block.erased).blocks = true := Memory.wf_set h cellsWf_nil

/-- The completion of a write that ends below position 128 keeps the canonical form. -/
theorem Memory.wf_afterWrite {s : State} {b : BlockId} {first : Nat} {images : List Image}
    (h : Memory.wf s.blocks = true) (hp : first + images.length ≤ 128) :
    Memory.wf (s.updBlock b (·.afterWrite first images)).blocks = true :=
  Memory.wf_set h (cellsWf_putRun (by simpa [State.block] using (Memory.wf_iff _).1 h b) hp)

/-- The completions of a commit and of a lock keep the canonical form. -/
theorem Memory.wf_committed {s : State} {b : BlockId} (h : Memory.wf s.blocks = true) :
    Memory.wf (s.updBlock b Block.committed).blocks = true :=
  Memory.wf_set h (by simpa [State.block] using (Memory.wf_iff _).1 h b)

theorem Memory.wf_lockedNow {s : State} {b : BlockId} (h : Memory.wf s.blocks = true) :
    Memory.wf (s.updBlock b Block.lockedNow).blocks = true :=
  Memory.wf_set h (by simpa [State.block] using (Memory.wf_iff _).1 h b)

/-- Start-up keeps the canonical form. -/
theorem Memory.wf_startedUp {s : State} (h : Memory.wf s.blocks = true) : Memory.wf s.startedUp.blocks = true := by
  rw [Memory.wf_iff] at h ⊢
  intro b
  have key : ∀ t : State, t.blocks = (s.mapBlocks fun _ r => if r.op.isSome then r.interrupted else r).blocks →
      cellsWf t.blocks[b].cells = true := by
    intro t ht
    rw [ht]
    have := h b
    have e : (s.mapBlocks fun _ r => if r.op.isSome then r.interrupted else r).blocks[b] =
        if s.blocks[b].op.isSome then s.blocks[b].interrupted else s.blocks[b] := by
      exact s.block_mapBlocks _ b
    rw [e]
    cases s.blocks[b].op.isSome <;> simpa using this
  unfold State.startedUp
  dsimp only
  split
  · exact key _ rfl
  · exact key _ rfl

/-- Reset memory is in canonical form. -/
theorem Memory.wf_reset : Memory.wf State.reset.blocks = true := by decide

/-! ### What STORE CLEAR does at a block (R136, R139) -/

/-- The state and the work of a STORE CLEAR at the block it reaches are what the statements call them. -/
theorem State.clearReach_clearAt (s : State) (b : BlockId) (erased : Nat) (worn : BlockSet) :
    s.clearAt b erased worn (s.clearReach b erased worn).1 (s.clearReach b erased worn).2 := by
  unfold State.clearAt State.clearReach
  simp only [State.updBlock_eq, State.block_setBlock_same]
  refine ⟨fun h => ?_, fun h => ?_⟩
  · rw [if_pos h]; exact ⟨rfl, rfl⟩
  · rw [if_neg (Nat.not_lt.2 h)]; exact ⟨rfl, rfl⟩

/-- STORE CLEAR at a block leaves the Management Unit alone. -/
@[simp] theorem State.clearReach_mgmt (s : State) (b : BlockId) (erased : Nat) (worn : BlockSet) :
    (s.clearReach b erased worn).1.mgmt = s.mgmt := by
  unfold State.clearReach
  dsimp only
  split <;> rfl

end Sys2Proof.Machine
end

