-- ==== Sys2Proof/Laws/Transitions.lean ====
section
/-! SUPPORT. Allocation requests answer alike from states that agree on what they read, so the layers of a note may be allocated
from any of them; and a transition and a settle commit are what the statements say of them. -/

namespace Sys2Proof.Machine

/-! ### What allocation requests depend on (R85 to R89) -/

/-- Two states agree on what allocation requests of a performer read and change: the voices, the timebase, the notice queue with
its mask, every other context, and of the performer's own the settings and the note. -/
def State.poolAgrees (s t : State) (i : Slot) : Prop :=
  s.voices = t.voices ∧ s.timebase = t.timebase ∧ (∀ j, j ≠ i → s.ctx j = t.ctx j) ∧
    (s.ctx i).settings = (t.ctx i).settings ∧ (s.ctx i).note = (t.ctx i).note ∧ s.mgmt.mask = t.mgmt.mask ∧
    s.mgmt.notices = t.mgmt.notices ∧ s.mgmt.noticesDropped = t.mgmt.noticesDropped

theorem State.poolAgrees.refl (s : State) (i : Slot) : s.poolAgrees s i :=
  ⟨rfl, rfl, fun _ _ => rfl, rfl, rfl, rfl, rfl, rfl⟩

theorem State.poolAgrees.settings {s t : State} {i : Slot} (h : s.poolAgrees t i) (o : Slot) :
    (s.ctx o).settings = (t.ctx o).settings ∧ (s.ctx o).note = (t.ctx o).note := by
  by_cases ho : o = i
  · subst ho; exact ⟨h.2.2.2.1, h.2.2.2.2.1⟩
  · rw [h.2.2.1 o ho]; exact ⟨rfl, rfl⟩

/-- Writing the same note at the performer, or changing another context in the same way, keeps the agreement. -/
theorem State.poolAgrees.setCtx {s t : State} {i : Slot} (h : s.poolAgrees t i) (o : Slot) (c d : Context)
    (hne : o ≠ i → c = d) (hs : c.settings = d.settings) (hn : c.note = d.note) :
    (s.setCtx o c).poolAgrees (t.setCtx o d) i := by
  obtain ⟨h1, h2, h3, h4, h5, h6⟩ := h
  refine ⟨h1, h2, fun j hj => ?_, ?_, ?_, h6⟩
  · by_cases ho : j = o
    · subst ho; rw [hne hj, State.ctx_setCtx_same, State.ctx_setCtx_same]
    · rw [State.ctx_setCtx_ne _ _ _ _ ho, State.ctx_setCtx_ne _ _ _ _ ho, h3 j hj]
  · by_cases ho : i = o
    · subst ho; rw [State.ctx_setCtx_same, State.ctx_setCtx_same, hs]
    · rw [State.ctx_setCtx_ne _ _ _ _ ho, State.ctx_setCtx_ne _ _ _ _ ho, h4]
  · by_cases ho : i = o
    · subst ho; rw [State.ctx_setCtx_same, State.ctx_setCtx_same, hn]
    · rw [State.ctx_setCtx_ne _ _ _ _ ho, State.ctx_setCtx_ne _ _ _ _ ho, h5]

theorem State.poolAgrees.setVoice {s t : State} {i : Slot} (h : s.poolAgrees t i) (v : VoiceId) (r : Voice) :
    (s.setVoice v r).poolAgrees (t.setVoice v r) i := by
  obtain ⟨h1, h2⟩ := h
  exact ⟨by simp only [State.setVoice, h1], h2⟩

theorem State.poolAgrees.offer {s t : State} {i : Slot} (h : s.poolAgrees t i) (n : Notice) :
    (s.offer n).poolAgrees (t.offer n) i := by
  obtain ⟨h1, h2, h3, h4, h5, h6, h7, h8⟩ := h
  exact ⟨h1, h2, h3, h4, h5, Management.offer_congr n h6 h7 h8⟩

/-- An allocation request answers the same from states that agree, and keeps the agreement (R85 to R89). -/
theorem State.poolAgrees.allocate {s t : State} {i : Slot} (h : s.poolAgrees t i) (index : Nat) (layer : Layer)
    (velocity : Nat) :
    (s.allocate i index layer velocity).1 = (t.allocate i index layer velocity).1 ∧
      (s.allocate i index layer velocity).2.poolAgrees (t.allocate i index layer velocity).2 i := by
  have hv : s.voice = t.voice := by funext v; simp only [State.voice, h.1]
  have ha : s.age = t.age := by funext x; simp only [State.age, h.2.1]
  have hp : ∀ o, (s.ctx o).settings = (t.ctx o).settings := fun o => (h.settings o).1
  have hfree : s.freeVoice = t.freeVoice := by funext e; simp only [State.freeVoice, hv]
  have hold : s.oldestReleasing = t.oldestReleasing := by funext e; simp only [State.oldestReleasing, hv, ha]
  have hvic : s.victim i = t.victim i := by
    have hs : s.stealable i = t.stealable i := by funext v; simp only [State.stealable, hv, hp]
    have hb : s.betterVictim = t.betterVictim := by
      funext v w; simp only [State.betterVictim, State.ownerPrecedence, hv, ha, hp]
    funext e; simp only [State.victim, hs, hb]
  have hsteal : ∀ v, (s.steal v i index layer velocity).poolAgrees (t.steal v i index layer velocity) i := by
    intro v
    have hd : (s.dispossess v).poolAgrees (t.dispossess v) i := by
      unfold State.dispossess
      rw [hv]
      split
      · next o _ _ =>
        refine h.setCtx o _ _ (fun ho => by rw [h.2.2.1 o ho]) ?_ ?_
        · exact hp o
        · show (s.ctx o).note.map _ = (t.ctx o).note.map _
          rw [(h.settings o).2]
      · exact h
    unfold State.steal State.updVoice
    have e : (s.dispossess v).voice v = (t.dispossess v).voice v := by simp only [State.voice, hd.1]
    rw [e, h.2.1]
    exact hd.setVoice _ _
  unfold State.allocate
  rw [hfree, hold, hvic]
  split
  · refine ⟨rfl, ?_⟩
    simp only [State.updVoice, hv, h.2.1]
    exact h.setVoice _ _
  · split
    · exact ⟨rfl, hsteal _⟩
    · split
      · exact ⟨rfl, hsteal _⟩
      · exact ⟨rfl, h.offer _⟩

/-- One layer's request, its answer at the end of the note's voice list (R66). -/
theorem State.allocateLayer_eq (s : State) (i : Slot) (velocity index : Nat) (layer : Layer) :
    s.allocateLayer i velocity index layer =
      (s.allocate i index layer velocity).2.setCtx i { (s.allocate i index layer velocity).2.ctx i with
        note := ((s.allocate i index layer velocity).2.ctx i).note.map fun n =>
          { n with voices := n.voices ++ [(s.allocate i index layer velocity).1] } } := rfl

/-- The requests for a list of layers keep the agreement (R66, R74). -/
theorem State.poolAgrees.allocateLayers (layers : List Layer) {s t : State} {i : Slot} (h : s.poolAgrees t i)
    (velocity index : Nat) :
    (s.allocateLayers i velocity index layers).poolAgrees (t.allocateLayers i velocity index layers) i := by
  induction layers generalizing s t index with
  | nil => exact h
  | cons l ls ih =>
    refine ih ?_ (index + 1)
    obtain ⟨ha, hb⟩ := h.allocate index l velocity
    rw [State.allocateLayer_eq, State.allocateLayer_eq, ha]
    exact hb.setCtx i _ _ (fun hc => absurd rfl hc) hb.2.2.2.1 (by rw [hb.2.2.2.2.1])

/-- The requests of a note's layers as the statements put them are the Voice Planner's. -/
theorem State.layersAllocated_eq (s : State) (i : Slot) (velocity : Nat) (layers : List Layer) :
    s.layersAllocated i velocity layers = s.allocateLayers i velocity 1 layers := by
  have key : ∀ (layers : List Layer) (index : Nat) (s : State), (layers.zipIdx index).foldl (fun s x =>
      (s.allocate i x.2 x.1 velocity).2.setCtx i { (s.allocate i x.2 x.1 velocity).2.ctx i with
        note := ((s.allocate i x.2 x.1 velocity).2.ctx i).note.map fun n =>
          { n with voices := n.voices ++ [(s.allocate i x.2 x.1 velocity).1] } }) s =
      s.allocateLayers i velocity index layers := by
    intro layers
    induction layers with
    | nil => intro _ _; rfl
    | cons l ls ih => intro index s; exact ih (index + 1) (s.allocateLayer i velocity index l)
  exact key layers 1 s

/-! ### Retakes of a transition (R70) -/

/-- A voice record after the transition's request: retaken when its layer copy says RESTRIKE. -/
def Voice.restruckBy (velocity : Nat) (r : Voice) : Voice :=
  match r.copy with
  | some copy =>
    match copy.legato with
    | .restrike => r.retaken copy.program velocity
    | .glide => r
  | none => r

theorem State.retakeIfRestrike_eq (s : State) (v : VoiceId) (velocity : Nat) :
    s.retakeIfRestrike v velocity = s.updVoice v (Voice.restruckBy velocity) := by
  unfold State.retakeIfRestrike Voice.restruckBy State.updVoice
  split
  · next copy hc =>
    split
    · next hl => simp only [hc, hl]; rfl
    · next hl => simp only [hc, hl, State.setVoice_same]
  · next hc => simp only [hc, State.setVoice_same]

/-- Only a SOUNDING voice with a RESTRIKE copy is retaken, and a START that is pending stays one (R70, R83). -/
theorem Voice.restruckBy_eq (velocity : Nat) (r : Voice) :
    r.restruckBy velocity =
      match r.copy with
      | some copy =>
        if r.state = .sounding ∧ copy.legato = .restrike then
          { r with pending :=
              match r.pending with
              | some (.start _ _) => some (.start copy.program velocity)
              | _ => some (.retake copy.program velocity) }
        else r
      | none => r := by
  rcases r with ⟨state, owner, layer, copy, tag, start, release, pending, flags, tail⟩
  rcases copy with _ | ⟨engine, program, transpose, scale, legato⟩
  · rfl
  · cases legato with
    | glide => cases state <;> rfl
    | restrike =>
      cases state <;> first | rfl | skip
      rcases pending with _ | d
      · rfl
      · cases d <;> rfl

theorem Voice.restruckBy_restruckBy (velocity : Nat) (r : Voice) :
    (r.restruckBy velocity).restruckBy velocity = r.restruckBy velocity := by
  rcases r with ⟨state, owner, layer, copy, tag, start, release, pending, flags, tail⟩
  rcases copy with _ | ⟨engine, program, transpose, scale, legato⟩
  · rfl
  · cases legato with
    | glide => rfl
    | restrike =>
      cases state <;> first | rfl | skip
      rcases pending with _ | d
      · rfl
      · cases d <;> rfl

/-! ### A note moves (R33, R69 to R74) -/

theorem State.transition_differentZone (s : State) (i : Slot) (pitch : Nat) (n : NoteRecord) (hn : (s.ctx i).note = some n)
    (hz : n.zone ≠ (s.zoneFor i pitch).map (·.1)) :
    s.transition i pitch = s.differentZone i n.velocity pitch (s.zoneFor i pitch) := by
  unfold State.transition
  simp only [hn]
  cases h1 : n.zone <;> cases h2 : s.zoneFor i pitch <;> simp [h1, h2] at hz ⊢
  simp [hz]

/-- A transition moves the note (R69, R70, R74). -/
theorem State.transition_movesNote (s : State) (i : Slot) (pitch : Nat) (n : NoteRecord) (hn : (s.ctx i).note = some n) :
    s.movesNote (s.transition i pitch) i n pitch := by
  have cents : pitch * 100 = 100 * pitch := Nat.mul_comm _ _
  refine ⟨fun h1 h2 => ?_, fun k z h1 h2 => ?_, fun h => ?_⟩
  · unfold State.transition
    simp only [hn, h1, h2, State.silentToSilent, State.updCtx_eq]
    simp [Context.withNote, hn, h1, cents]
  · let moved : State := s.setCtx i { s.ctx i with note := some { n with pitch := pitch } }
    have e : s.transition i pitch = (forEach (moved.ctx i).noteVoices
        (fun v s => s.retakeIfRestrike v n.velocity) moved).retargetGlide i (100 * pitch) z.glideTime := by
      unfold State.transition
      simp only [hn, h1, h2, if_true, State.inZone, State.updCtx_eq, Context.withNote, cents, moved, Option.map_some]
    have retaken : forEach (moved.ctx i).noteVoices (fun v s => s.retakeIfRestrike v n.velocity) moved =
        moved.mapVoices fun v r => if v ∈ (s.ctx i).noteVoices then r.restruckBy n.velocity else r := by
      have hf : (fun v s => State.retakeIfRestrike s v n.velocity) =
          fun v s => State.updVoice s v (Voice.restruckBy n.velocity) := by
        funext v s; exact s.retakeIfRestrike_eq v _
      have hv : (moved.ctx i).noteVoices = (s.ctx i).noteVoices := by
        simp [moved, Context.noteVoices, hn, NoteRecord.present]
      rw [hf, forEach_updVoice _ (fun _ => Voice.restruckBy n.velocity)
        (fun _ => Voice.restruckBy_restruckBy n.velocity), hv]
    refine ⟨_, ?_, fun v => ?_, e.trans (by rw [retaken])⟩
    · simp [moved, State.mapVoices]
    · simp only [State.voice_mapVoices]
      rw [Voice.restruckBy_eq, show moved.voice v = s.voice v from rfl]
      cases (s.voice v).copy with
      | none => simp
      | some copy =>
        by_cases h : v ∈ (s.ctx i).noteVoices
        · simp [h] <;> rfl
        · simp [h]
  · rw [s.transition_differentZone i pitch n hn h, State.differentZone]
    refine ⟨(s.endVoices i).updCtx i (·.beginNote pitch n.velocity ((s.zoneFor i pitch).map (·.1))), ?_, fun v => ?_, ?_⟩
    · rw [State.endVoices_eq]
      simp [State.mapVoices, State.setCtx, Context.beginNote, GlideCounter.at, cents]
      simp [State.ctx]
    · rw [State.endVoices_eq]
      simp
    · rw [State.layersAllocated_eq]

/-- A settle commit commits (R33). -/
theorem State.settleCommit_commits (s : State) (i : Slot) (g : Gesture) : s.commits (s.settleCommit i g) i g := by
  refine ⟨fun h => ?_, fun p n h1 h2 h3 => ⟨_, s.transition_movesNote i p n h3, ?_⟩⟩
  · unfold State.settleCommit
    rcases h with h | h
    · simp [h]
    · cases hq : s.resolve i g with
      | none => rfl
      | some q => simp [← h, hq]
  · unfold State.settleCommit
    simp only [h1, h2, if_false, State.updCtx_eq]

theorem State.onlySection_settleCommit (s : State) (i : Slot) (g : Gesture) : s.onlySection (s.settleCommit i g) := by
  unfold State.settleCommit
  split
  · exact State.onlySection.refl _
  · split
    · exact State.onlySection.refl _
    · next p _ _ =>
      cases hn : (s.ctx i).note with
      | none => simp only [State.transition, hn]; exact State.onlySection_setCtx _ _ _
      | some n => exact (s.transition_spec i p n hn).1.trans (State.onlySection_setCtx _ _ _)

end Sys2Proof.Machine
end

