-- ==== Sys2Proof/Laws/Waiting.lean ====
section
/-! SUPPORT. No command reads or changes the commands that wait behind it: judging and carrying one out gives the same whatever
waits, and leaves it waiting. So a list of waiting commands starts one command at a time. -/

namespace Sys2Proof.Machine

/-- The state with other commands waiting and another power state, the two fields that no command reads or changes. -/
def State.withQueue (s : State) (w : List Cmd) (p : Power) : State :=
  { s with power := p, mgmt := { s.mgmt with waiting := w } }

theorem State.withQueue_self (s : State) : s.withQueue s.mgmt.waiting s.power = s := rfl

section reads

variable (s : State) (w : List Cmd) (p : Power)

@[simp] theorem State.withQueue_ctx (i : Slot) : (s.withQueue w p).ctx i = s.ctx i := rfl
@[simp] theorem State.withQueue_voice (v : VoiceId) : (s.withQueue w p).voice v = s.voice v := rfl
@[simp] theorem State.withQueue_engine (e : EngineId) : (s.withQueue w p).engine e = s.engine e := rfl
@[simp] theorem State.withQueue_block (b : BlockId) : (s.withQueue w p).block b = s.block b := rfl
@[simp] theorem State.withQueue_bound (b : BlockId) : (s.withQueue w p).bound b = s.bound b := rfl
@[simp] theorem State.withQueue_quiesce : (s.withQueue w p).quiesce = s.quiesce := rfl
@[simp] theorem State.withQueue_arbiter : (s.withQueue w p).arbiter = s.arbiter := rfl
@[simp] theorem State.withQueue_waiting : (s.withQueue w p).mgmt.waiting = w := rfl
@[simp] theorem State.withQueue_power : (s.withQueue w p).power = p := rfl
@[simp] theorem State.withQueue_withQueue (w' : List Cmd) (p' : Power) :
    (s.withQueue w p).withQueue w' p' = s.withQueue w' p' := rfl

/-! ### The shared operations -/

@[simp] theorem State.updCtx_withQueue (i : Slot) (f : Context → Context) :
    (s.withQueue w p).updCtx i f = (s.updCtx i f).withQueue w p := rfl
@[simp] theorem State.updVoice_withQueue (v : VoiceId) (f : Voice → Voice) :
    (s.withQueue w p).updVoice v f = (s.updVoice v f).withQueue w p := rfl
@[simp] theorem State.updEngine_withQueue (e : EngineId) (f : Engine → Engine) :
    (s.withQueue w p).updEngine e f = (s.updEngine e f).withQueue w p := rfl
@[simp] theorem State.updBlock_withQueue (b : BlockId) (f : Block → Block) :
    (s.withQueue w p).updBlock b f = (s.updBlock b f).withQueue w p := rfl
@[simp] theorem State.mapContexts_withQueue (f : Slot → Context → Context) :
    (s.withQueue w p).mapContexts f = (s.mapContexts f).withQueue w p := rfl
@[simp] theorem State.mapVoices_withQueue (f : VoiceId → Voice → Voice) :
    (s.withQueue w p).mapVoices f = (s.mapVoices f).withQueue w p := rfl
@[simp] theorem State.mapEngines_withQueue (f : EngineId → Engine → Engine) :
    (s.withQueue w p).mapEngines f = (s.mapEngines f).withQueue w p := rfl
@[simp] theorem State.demand_withQueue (x : EngineSet) (f : Control) :
    (s.withQueue w p).demand x f = (s.demand x f).withQueue w p := rfl
@[simp] theorem State.presentEngines_withQueue : (s.withQueue w p).presentEngines = s.presentEngines := rfl
@[simp] theorem State.lowestBound_withQueue : (s.withQueue w p).lowestBound = s.lowestBound := rfl
@[simp] theorem State.setArbiter_withQueue (a : Arbiter) :
    (s.withQueue w p).setArbiter a = (s.setArbiter a).withQueue w p := rfl
@[simp] theorem State.setQuiesce_withQueue (q : Quiesce) :
    (s.withQueue w p).setQuiesce q = (s.setQuiesce q).withQueue w p := rfl
@[simp] theorem State.beginStore_withQueue (b : BlockId) (op : StoreOp) :
    (s.withQueue w p).beginStore b op = (s.beginStore b op).withQueue w p := rfl
@[simp] theorem State.buildReply_withQueue (cause : Option Cause) (data : List Byte) :
    (s.withQueue w p).buildReply cause data = (s.buildReply cause data).withQueue w p := rfl
@[simp] theorem State.setInProgress_withQueue (c : Cmd) (work : Work) :
    (s.withQueue w p).setInProgress c work = (s.setInProgress c work).withQueue w p := rfl

@[simp] theorem State.offer_withQueue (n : Notice) : (s.withQueue w p).offer n = (s.offer n).withQueue w p := by
  have h : ({ s.mgmt with waiting := w } : Management).offer n = { s.mgmt.offer n with waiting := w } := by
    simp only [Management.offer, show ({ s.mgmt with waiting := w } : Management).allows n = s.mgmt.allows n from rfl]
    cases s.mgmt.allows n with
    | false => rfl
    | true => by_cases hn : s.mgmt.notices.length < 8 <;> simp [hn]
  simp only [State.offer, State.withQueue, State.setMgmt, h]

/-- What each member of a list does alike, the whole list does alike. -/
theorem forEach_withQueue {α : Type} (l : List α) (f : α → State → State)
    (hf : ∀ a s, f a (State.withQueue s w p) = (f a s).withQueue w p) :
    forEach l f (s.withQueue w p) = (forEach l f s).withQueue w p := by
  induction l generalizing s with
  | nil => rfl
  | cons a l ih =>
    simp only [forEach, List.foldl_cons, hf] at ih ⊢
    exact ih (f a s)

/-! ### Notes, staged bindings and the entries to READY and ABSENT -/

@[simp] theorem State.noteEnd_withQueue (i : Slot) : (s.withQueue w p).noteEnd i = (s.noteEnd i).withQueue w p := by
  simp only [State.noteEnd, State.endVoices, State.withQueue_ctx]
  rw [forEach_withQueue s w p _ _ fun _ _ => rfl]
  rfl

@[simp] theorem State.abandon_withQueue (i : Slot) : (s.withQueue w p).abandon i = (s.abandon i).withQueue w p := by
  simp only [State.abandon, State.updCtx_withQueue, State.noteEnd_withQueue]

@[simp] theorem State.applyAll_withQueue (i : Slot) (timing : StagedTiming) :
    (s.withQueue w p).applyAll i timing = (s.applyAll i timing).withQueue w p := by
  refine forEach_withQueue s w p _ _ fun k t => ?_
  simp only [State.applyStaged, State.withQueue_ctx]
  split <;> [split; skip] <;> simp only [State.updCtx_withQueue, State.offer_withQueue]

@[simp] theorem State.enterReady_withQueue (i : Slot) :
    (s.withQueue w p).enterReady i = (s.enterReady i).withQueue w p := by
  simp only [State.enterReady, State.updCtx_withQueue, State.applyAll_withQueue]

@[simp] theorem State.enterAbsent_withQueue (i : Slot) :
    (s.withQueue w p).enterAbsent i = (s.enterAbsent i).withQueue w p := by
  simp only [State.enterAbsent, State.updCtx_withQueue, State.applyAll_withQueue]

/-! ### Commands with more than one effect -/

@[simp] theorem State.disable_withQueue (i : Slot) : (s.withQueue w p).disable i = (s.disable i).withQueue w p := by
  simp only [State.disable, State.withQueue_ctx]
  by_cases he : (s.ctx i).enabled = true
  · cases hs : (s.ctx i).state <;>
      simp only [he, if_true, State.updCtx_withQueue, State.abandon_withQueue, State.enterAbsent_withQueue]
  · simp only [he, Bool.false_eq_true, if_false]

@[simp] theorem State.bindAt_withQueue (i : Slot) (k : TableKind) (target : Option BlockId) (t : BindTiming) :
    (s.withQueue w p).bindAt i k target t = ((s.bindAt i k target t).1.withQueue w p, (s.bindAt i k target t).2) := by
  cases t with
  | now =>
    cases target with
    | some b => rfl
    | none =>
      simp only [State.bindAt, State.bindNone, State.withQueue_ctx, State.updCtx_withQueue]
      by_cases h : ((s.ctx i).bindings.get k).active.isSome = true ∧ (s.ctx i).state.active = true <;>
        simp only [h, if_true, if_false, State.abandon_withQueue, State.enterReady_withQueue, and_self]
  | atRest =>
    simp only [State.bindAt, State.bindAtRest, State.withQueue_ctx, State.stage, State.updCtx_withQueue]
    by_cases h : (s.ctx i).state.active = true <;> simp only [h, if_true, Bool.false_eq_true, if_false]
  | atPhrase =>
    simp only [State.bindAt, State.bindAtPhrase, State.stage, State.updCtx_withQueue, State.withQueue_ctx]
    exact congrArg (·, false) (apply_ite (State.withQueue · w p) _ _ _).symm

@[simp] theorem State.clearReach_withQueue (b : BlockId) (erased : Nat) (worn : BlockSet) :
    (s.withQueue w p).clearReach b erased worn =
      ((s.clearReach b erased worn).1.withQueue w p, (s.clearReach b erased worn).2) := by
  simp only [State.clearReach, State.updBlock_withQueue, State.withQueue_block]
  by_cases h : ((s.updBlock b ({ · with locked := false })).block b).eraseCount < 1000 <;>
    (simp only [h, if_true, if_false, State.beginStore_withQueue]; try rfl)

@[simp] theorem State.quiesceBegin_withQueue (kind : ResetKind) (limit : Nat) :
    (s.withQueue w p).quiesceBegin kind limit = (s.quiesceBegin kind limit).withQueue w p := by
  have h : ∀ (i : Slot) (t : State), (t.withQueue w p).quiesceContext i = (t.quiesceContext i).withQueue w p := by
    intro i t
    by_cases ha : (t.ctx i).state.active = true <;>
      simp only [State.quiesceContext, State.withQueue_ctx, ha, if_true, Bool.false_eq_true, if_false,
        State.abandon_withQueue, State.enterReady_withQueue]
  have h' := forEach_withQueue (s.setQuiesce { s.quiesce with phase := .quiescing, kind := some kind }) w p slots
    (fun i s => s.quiesceContext i) h
  simp only [State.quiesceBegin, State.withQueue_quiesce, State.setQuiesce_withQueue, h',
    State.presentEngines_withQueue, State.demand_withQueue]

@[simp] theorem State.resetEffects_withQueue : (s.withQueue w p).resetEffects = s.resetEffects.withQueue w p := by
  simp only [State.resetEffects, State.withQueue_quiesce]
  rcases s.quiesce.kind with _ | _ | _
  · rfl
  · have h := forEach_withQueue (s.mapContexts fun _ c => c.afterSection) w p slots (fun i s => s.applyAll i .atRest)
      fun i t => State.applyAll_withQueue t w p i .atRest
    simp only [State.sectionEffects, State.mapContexts_withQueue, h, State.mapVoices_withQueue]
    rfl
  · rfl

@[simp] theorem State.quiesceTest_withQueue : (s.withQueue w p).quiesceTest = s.quiesceTest.withQueue w p := by
  by_cases hc : s.quiesce.complete = true <;>
    simp only [State.quiesceTest, State.withQueue_quiesce, hc, if_true, Bool.false_eq_true, if_false, State.quiesceEnd,
      State.demand_withQueue, State.resetEffects_withQueue, State.setQuiesce_withQueue, State.buildReply_withQueue]

end reads

/-! ### Judging, carrying out and starting a command (R167, R168) -/

/-- An answer with other commands waiting. -/
def Answer.withQueue (a : Answer) (w : List Cmd) (p : Power) : Answer :=
  match a with
  | .done t data => .done (t.withQueue w p) data
  | .refused cause data => .refused cause data
  | .started t work => .started (t.withQueue w p) work

/-- An answer that is chosen between two. -/
theorem Answer.withQueue_ite (q : Prop) [Decidable q] (a b : Answer) (w : List Cmd) (p : Power) :
    (if q then a else b).withQueue w p = if q then a.withQueue w p else b.withQueue w p := apply_ite (·.withQueue w p) q a b

/-- A command is judged and carried out alike whatever waits behind it. -/
theorem State.carryOut_withQueue (s : State) (w : List Cmd) (p : Power) (c : Cmd) :
    (s.withQueue w p).carryOut c = (s.carryOut c).withQueue w p := by
  unfold State.carryOut
  split
  all_goals try simp only [State.performerSet, State.performerEnable, State.performerDisable, State.performerRead,
    State.bindCommand, State.engineSet, State.engineRead, State.voiceRead, State.arbiterSet, State.arbiterRead,
    State.tableErase, State.tableWrite, State.tableCommit, State.tableVerify, State.tableBlankCheck, State.tableRead,
    State.tableLock, State.blockRead, State.storeClear, State.noticeMaskSet, State.resetCommand, State.resetWith,
    State.withQueue_block, State.withQueue_bound, State.withQueue_ctx, State.disable_withQueue, State.clearReach_withQueue,
    State.quiesceBegin_withQueue, State.lowestBound_withQueue, State.bindDone, State.bindAt_withQueue]
  all_goals repeat' first
    | rfl
    | (simp only [Answer.withQueue_ite]; first | rfl | (congr 1; split <;> rfl))
    | split

/-- A command starts alike whatever waits behind it, and leaves it waiting. -/
theorem State.startHeld_withQueue (s : State) (w : List Cmd) (p : Power) (c : Cmd) :
    (s.withQueue w p).startHeld c = (s.startHeld c).withQueue w p := by
  unfold State.startHeld
  rw [State.carryOut_withQueue]
  cases s.carryOut c with
  | done t data => rfl
  | refused cause data => rfl
  | started t work =>
    cases work <;> simp only [Answer.withQueue, State.setInProgress_withQueue, State.quiesceTest_withQueue]

/-- The start of a command changes neither the commands behind it nor the power state. -/
theorem State.startHeld_keeps (s : State) (c : Cmd) :
    (s.startHeld c).mgmt.waiting = s.mgmt.waiting ∧ (s.startHeld c).power = s.power := by
  have h := s.startHeld_withQueue s.mgmt.waiting s.power c
  rw [s.withQueue_self] at h
  exact ⟨by rw [h]; rfl, by rw [h]; rfl⟩

/-- The head waiting command starts as it would with none behind it, and the others are then tested (R167). -/
theorem State.startWaiting_cons (s : State) (c : Cmd) (rest : List Cmd) (hw : s.mgmt.waiting = c :: rest)
    (hp : s.mgmt.inProgress = none) (hr : s.mgmt.replies.length < 2) :
    s.startWaiting = (((s.hold c []).startHeld c).withQueue rest s.power).startWaiting := by
  have h : (s.hold c rest).startHeld c = ((s.hold c []).startHeld c).withQueue rest s.power :=
    (s.hold c []).startHeld_withQueue rest s.power c
  conv_lhs => rw [State.startWaiting, hw, List.length_cons, State.startUpTo]
  simp only [hp, hw, hr, if_true, h]
  rfl

/-- While the part runs, COMMAND_START is the test of the waiting list (R167). -/
theorem State.exec_commandStart (s : State) (h : s.power = .running) : exec .commandStart s = .next s.startWaiting :=
  congrArg _ (s.whenRunning_running _ h)

/-- The row of a command is the arrival of that command. -/
theorem Cmd.exec_row (c : Cmd) (row : Instr) (s : State) (h : c.row = some row) :
    exec row s = .next (s.consoleCommand c.code c.tag c.params) := by
  unfold Cmd.row at h
  split at h
  case h_22 => cases h
  all_goals
    rename_i hc
    cases h
    rw [show c.code = BitVec.ofNat 8 c.code.toNat by simp, hc]
    rfl

/-- A command that arrives with none waiting, while nothing is in progress and an entry is free, is started. -/
theorem State.consoleCommand_starts (s : State) (c : Cmd) (hr : s.power = .running) (hl : c.params.length ≤ 40)
    (hp : s.mgmt.inProgress = none) (hn : s.mgmt.replies.length < 2) :
    State.consoleCommand { s with mgmt := { s.mgmt with waiting := [] } } c.code c.tag c.params =
      (s.hold c []).startHeld c := by
  have h := State.startWaiting_cons { s with mgmt := { s.mgmt with waiting := [c] } } c [] rfl hp hn
  rw [State.consoleCommand, if_pos hl]
  refine Eq.trans (State.whenRunning_running _ _ hr) (Eq.trans ?_ (h.trans ((State.startWaiting_nil _ rfl).trans ?_)))
  · rfl
  · exact ((s.hold c []).startHeld_withQueue [] s.power c).symm

end Sys2Proof.Machine
end

