-- ==== Sys2Proof/Tests/Slice0.lean ====
section
/-! SUPPORT. The model's own tests: what well-formedness refuses, the manual's worked values, and for every statement with
hypotheses a state that meets them. -/

set_option Elab.async false

namespace Sys2Proof.Tests

open Sys2Proof.Machine

/-! ### Well-formedness: one ill-formed term for each check -/

theorem test_illFormed_frame_of_48_bytes : (Instr.gesture 0 (List.replicate 47 0)).wellFormed = false := by decide
theorem test_wellFormed_frame_of_47_bytes : (Instr.gesture 0 (List.replicate 46 0)).wellFormed = true := by decide
theorem test_illFormed_engine_frame : (Instr.hello 0 (List.replicate 47 0)).wellFormed = false := by decide
theorem test_illFormed_parameters : (Instr.bind 0 (List.replicate 41 0)).wellFormed = false := by decide
theorem test_wellFormed_parameters : (Instr.bind 0 (List.replicate 40 0)).wellFormed = true := by decide
theorem test_illFormed_short_reset_line : (Instr.hardReset (.line 9)).wellFormed = false := by decide
theorem test_illFormed_cut_of_47_bytes : (Instr.receiverFrameCut .voice (List.replicate 47 0)).wellFormed = false := by
  decide
theorem test_no_word_spells_a_command : decodeTableWord 8 0x13 = none := by decide

/-! ### The manual's tables (sections 2.3.1, 3.2.1 and 4.10) -/

/-- The Fingering Map of section 2.3.1. -/
def mapTable : List Image :=
  [[1, 9, 60, 60]] ++
  [[0, 0, 0x01, 0, 0, 0x7F, 0xF4, 1], [0, 0, 0x7E, 0, 0, 0x7E, 2, 0], [0, 0, 0x3E, 0, 0, 0x7E, 4, 0]] ++
  [[0, 0, 0x1E, 0, 0, 0x7E, 5, 0], [0, 0, 0x0E, 0, 0, 0x7E, 7, 0], [0, 0, 0x06, 0, 0, 0x7E, 9, 0]] ++
  [[0, 0, 0x02, 0, 0, 0x7E, 11, 0], [0, 0, 0x00, 0, 0, 0x7E, 12, 0], [0, 0, 0x04, 0, 0, 0x7E, 13, 0]]

/-- The Breath Curve of section 3.2.1. -/
def curveTable : List Image :=
  [[2, 8, 4, 0, 120, 0, 80, 24, 64, 100]] ++
  [[0, 80, 0, 0], [0x01, 0x2C, 0x17, 0x70], [0x02, 0xBC, 0x36, 0xB0], [0x03, 0xFF, 0x3F, 0xFF]] ++
  [[0, 0, 0, 127], [0, 8, 0, 100], [0, 32, 0, 40], [0, 64, 0, 20]]

/-- The first zone of the Voice Plan of section 4.10. -/
def zoneImage : Image := [40, 71, 20, 2, 0, 12, 0, 100, 0, 1, 40, 0xF4, 60, 1] ++ List.replicate 10 0

/-- The Voice Plan of section 4.10. -/
def planTable : List Image :=
  [[3, 2], zoneImage, [72, 96, 0, 1, 2, 5, 0, 80, 0] ++ List.replicate 15 0]

/-- A VALID block that holds a table. -/
def tableBlock (k : TableKind) (t : List Image) : Block :=
  { Block.factory with state := .valid, kind := some k, cells := (List.range t.length).zip t }

/-- The part with the three tables in blocks 0, 1 and 2, its lines quiet and the broadcast HUSH sent. -/
def tables : State :=
  { ((State.reset.setBlock 0 (tableBlock .map mapTable)).setBlock 1 (tableBlock .curve curveTable)).setBlock 2
      (tableBlock .plan planTable) with
    broadcastHush := false, gestureRx := .idle, voiceRx := .idle }

/-- The part with four engines of 24 FREE voices each. -/
def staffed : State :=
  { tables with
    engines := Vector.replicate 4 ⟨true, some 24, false, 125, none⟩
    voices := Vector.replicate 96 { Voice.initial with state := .free } }

/-- A gesture with an octave of 0, a bite of 100 and a lip at rest. -/
def blow (keys : KeySet) (breath : Nat) : Gesture := ⟨keys, 0, breath, 100, 128⟩

/-- All three kinds bound. -/
def boundAll : Bindings := ⟨⟨some 0, none⟩, ⟨some 1, none⟩, ⟨some 2, none⟩⟩

/-- An ABSENT performer with its tables. -/
def absentCtx : Context := { Context.initial with bindings := boundAll }

/-- A READY performer, the silence and phrase timers running. -/
def readyCtx : Context :=
  { absentCtx with
    state := .ready, lastFrame := some (blow 0x0E 40),
    timers := { Timers.stopped with silence := Timer.start 800, phrase := Timer.start 2048 } }

/-- A READY performer whose guard runs. -/
def guardedCtx : Context := { readyCtx with timers := { readyCtx.timers with guard := Timer.start 8 } }

/-- A performer in ONSET since timebase 4. -/
def onsetCtx : Context :=
  { readyCtx with
    state := .onset, onset := some ⟨4, 640⟩, lastFrame := some (blow 0x0E 640),
    timers := { Timers.stopped with silence := Timer.start 800, attack := Timer.start 32 } }

/-- A performer SOUNDING at 67 on voices 3 and 31. -/
def soundingCtx : Context :=
  { readyCtx with
    state := .sounding, lastFrame := some (blow 0x0E 612), committedPitch := some 67,
    note := some ⟨67, some 1, 80, [some 3, some 31]⟩, glide := .at 67,
    timers := { Timers.stopped with silence := Timer.start 800 } }

/-- The same performer SETTLING. -/
def settlingCtx : Context :=
  { soundingCtx with state := .settling, candidate := true, timers := { soundingCtx.timers with settle := Timer.start 24 } }

/-- The same performer with its glide on the way to 62. -/
def glidingCtx : Context :=
  { soundingCtx with
    note := some ⟨62, some 1, 80, [some 3, some 31]⟩, committedPitch := some 62,
    glide := ⟨6700, 6200, 25, .down⟩, timers := { soundingCtx.timers with glideStep := Timer.start 4 } }

/-- A SOUNDING voice of performer 2 with a layer of the plan's first zone. -/
def voiceOf2 (index : Nat) (layer : Layer) : Voice :=
  { Voice.initial with state := .sounding, owner := some 2, layer := some index, copy := some layer, tag := 5 }

/-- Performer 2 in the part with a context, owning voices 3 and 31. -/
def owning (c : Context) : State :=
  ((staffed.setVoice 3 (voiceOf2 1 ⟨0, 12, 0, 100, .glide⟩)).setVoice 31
    (voiceOf2 2 ⟨1, 40, -12, 60, .restrike⟩)).setCtx 2 c

/-- Performer 2 in the part with a context and no voice. -/
def alone (c : Context) : State := { staffed.setCtx 2 c with timebase := 20 }

/-- A voice whose END has been sent. -/
def tailing : Voice := { Voice.initial with state := .releasing, tag := 5, tailTimer := Timer.start 8000 }

/-- A quiesce of kind SECTION that waits for engines 0 and 1, both told of it, none answered, behind a RESET with tag 9. -/
def quiescing : State :=
  { staffed with
    quiesce := ⟨.quiescing, some .sectionOnly, 3, 3, 0, Timer.start 1008⟩
    mgmt := { Management.initial with
      inProgress := some ⟨⟨9, 0x70, [1]⟩, .reset⟩
      replies := [⟨9, 0x70, none⟩] } }

/-- The part with a command in progress whose entry is the only one. -/
def during (s : State) (c : Cmd) (w : Work) : State :=
  { s with mgmt := { Management.initial with inProgress := some ⟨c, w⟩, replies := [⟨c.tag, c.code, none⟩] } }

/-! ### The manual's worked values -/

theorem test_gesture_frame_of_section_9_3_1 :
    gestureFrame 3 ⟨0x0E, 1, 612, 100, 128⟩ = [0x13, 0, 0, 0x0E, 1, 2, 0x64, 0x64, 0x80, 0x94] := by decide

theorem test_broadcast_hush_bytes : broadcastFrame = [0x8F, 0x71] := by decide

theorem test_checksums_of_section_7 : weightedSum 1 [3, 0, 2, 5, 7] = 64 ∧ weightedSum 1 [7, 5, 2, 0, 3] = 38 := by
  decide

/-- The map of section 2.3.1 as the model reads it from its block. -/
theorem test_resolutions_of_section_2_3_1 :
    let r := fun keys octave transpose =>
      ((tableBlock .map mapTable).fingerMap.bind fun m => m.resolve keys octave transpose)
    r 0x0E 0 0 = some 67 ∧ r 0x8E 1 0 = some 79 ∧ r 0x01 2 0 = some 48 ∧ r 0x03 0 0 = some 71 ∧ r 0x0A 0 0 = none ∧
      r 0 (-3) 0 = some 36 ∧ r 0 3 24 = none ∧ r 0x04 0 0 = some 73 := by decide +kernel

/-- The curve of section 3.2.1 as the model reads it from its block. -/
theorem test_lookups_of_section_3_2_1 :
    (tableBlock .curve curveTable).curve.map (fun c =>
      ([50, 500, 612, 1000].map (interpolate c.breathPoints), [5, 16, 32, 200].map c.velocity)) =
      some ([0, 10000, 12240, 16213], [111, 80, 40, 20]) := by decide +kernel

theorem test_tables_are_whole :
    (tableBlock .map mapTable).wf = true ∧ (tableBlock .curve curveTable).wf = true ∧
      (tableBlock .plan planTable).wf = true := by decide +kernel

/-- Section 3.10.1 at time 20: a peak starts the note at velocity 80. -/
theorem test_peak_of_section_3_10_1 :
    (((alone onsetCtx).gestureAt 2 (blow 0x0E 612)).ctx 2).note = some ⟨67, some 1, 80, [some 0, some 24]⟩ := by
  decide +kernel

/-- Section 4.10 at times 100 and 142: the retargets of the glide. -/
theorem test_glides_of_section_4_10 :
    (GlideCounter.at 67).retarget 6200 20 = ⟨6700, 6200, 25, .down⟩ ∧
      GlideCounter.retarget ⟨6450, 6200, 25, .down⟩ 6900 20 = ⟨6450, 6900, 23, .up⟩ ∧
      GlideCounter.advance ⟨6887, 6900, 23, .up⟩ = ⟨6900, 6900, 23, .up⟩ := by decide

/-- Section 2.6 at time 38: the settle expiry moves the note from 67 to 62. -/
theorem test_settle_commit_of_section_2_6 :
    let t := (owning { settlingCtx with lastFrame := some (blow 0x7E 612) }).settleExpiry 2
    (t.ctx 2).note = some ⟨62, some 1, 80, [some 3, some 31]⟩ ∧ (t.ctx 2).glide = ⟨6700, 6200, 25, .down⟩ ∧
      (t.voice 31).pending = some (.retake 40 80) ∧ (t.voice 3).pending = none := by decide +kernel

/-- Section 6.9, steps 1 and 2: START class before END class, each from its rotation point. -/
theorem test_round_of_section_6_9 :
    let s := { ((staffed.setVoice 10 { tailing with pending := some .ending, tailTimer := none }).setVoice 31
        { voiceOf2 2 ⟨1, 40, 0, 60, .glide⟩ with pending := some (.retake 40 80) }).setVoice 48
        { voiceOf2 1 ⟨2, 5, 0, 80, .glide⟩ with pending := some (.start 5 80) } with
      arbiter := { Arbiter.initial with
        bandPoints := ⟨some .ending, some .level, some .notice⟩
        voicePoints := ⟨some 30, some 5, some 3, some 40, none⟩ } }
    s.choice = some ⟨.start, .voice 31, some .high⟩ ∧
      ((s.take ⟨.start, .voice 31, some .high⟩).choice) = some ⟨.ending, .voice 10, some .high⟩ := by decide +kernel

/-- Section 7.10, steps 4 and 5: the interrupted block becomes INCOMPLETE and is named in one notice. -/
theorem test_interrupted_clear_of_section_7_10 :
    let s := (tables.setBlock 2 { tableBlock .plan planTable with op := some .erase, eraseCount := 501 }).cleared .inReset
    (s.startedUp.block 2).state = .incomplete ∧ (s.startedUp.block 2).eraseCount = 501 ∧
      s.startedUp.mgmt.notices = [.storeInterrupted 4] := by decide +kernel

/-- Section 7.10, steps 2 and 3: while STORE CLEAR passes a worn block no mark is set, and a hard reset then finds nothing to
report; the next event goes on to the block behind it. -/
theorem test_passing_of_section_7_10 :
    let c : Cmd := ⟨1, 0x58, []⟩
    let s := { tables.setBlock 1 { tableBlock .curve curveTable with locked := true, eraseCount := 1000 } with
      mgmt := { Management.initial with inProgress := some ⟨c, .storeClear 0 0 0⟩, replies := [⟨1, 0x58, none⟩] } }
    let passing := s.clearBlockDone
    passing.mgmt.inProgress = some ⟨c, .passOver 1 1 0⟩ ∧ (∀ b, (passing.block b).op = none) ∧
      (passing.cleared .inReset).startedUp.mgmt.notices = [] ∧
      passing.clearBlockDone.mgmt.inProgress = some ⟨c, .storeClear 2 1 2⟩ ∧
      (passing.clearBlockDone.block 2).op = some .erase := by decide +kernel

/-- Section 7.9, steps 1, 4 and 8: the refusals of TABLE WRITE. -/
theorem test_refused_writes_of_section_7_9 :
    (tableBlock .plan planTable).judgeWrite false 0 ([3, 2] ++ zoneImage) = .refuse .blockState [2] ∧
      Block.factory.judgeWrite false 1 zoneImage = .refuse .noHeader [] ∧
      { tableBlock .plan planTable with state := .opened }.judgeWrite false 1 zoneImage = .refuse .alreadyWritten [1] := by
  decide +kernel

/-- The machine right after reset is the machine after a hard reset and start-up (log entry 8). -/
theorem test_reset_is_started_up : (State.reset.cleared .inReset).startUp = State.reset := by decide +kernel

/-- What the clock does first after reset: the broadcast HUSH (R179). -/
theorem test_first_step_after_reset :
    (match step State.reset with
      | .next t => t.arbiter.transmitter
      | .fault _ => none
      | .refused _ => none) = some ⟨.control, [0x8F, 0x71], 5⟩ := by decide +kernel

/-! ### States that meet the hypotheses of the statements

Each theorem is named after the statement whose hypotheses it meets; one with several clauses has one theorem for each. -/

theorem test_meets_StepRunsFrontCommand :
    { State.reset with pending := [.selection, .startUp] }.pending = .selection :: [.startUp] := rfl

theorem test_meets_EveryCommandCompletes :
    (State.reset.cleared .inReset).power ≠ .running ∧ (State.reset.cleared .inReset).pending = [] ∧
      (State.reset.cleared .off).power ≠ .running ∧ (∀ cause, Instr.selection ≠ .hardReset cause) ∧
      Instr.selection ≠ .powerLoss ∧ Instr.selection ≠ .startUp :=
  ⟨by decide, rfl, by decide, fun _ => nofun, nofun, nofun⟩

theorem test_meets_ClockCountsTu :
    (owning glidingCtx).pending = [] ∧ (owning glidingCtx).power = .running ∧ (owning glidingCtx).dueEvents = [] ∧
      (owning glidingCtx).arbiter.transmitter = none := by decide +kernel

/-- A step from a state within all the laws, with a command that changes much. -/
def loaded : State := { owning soundingCtx with pending := [gestureCommand 2 (blow 0x0E 60)] }

theorem test_meets_LawsKept :
    (∃ t, step loaded = .next t) ∧ loaded.mgmt.wf = true ∧ loaded.restartWf = true ∧ loaded.storeWf = true ∧
      loaded.poolWf = true ∧ loaded.contextsWf = true ∧ loaded.ownedWf = true ∧ loaded.atRestInQuiesce = true ∧
      loaded.bound 1 = true :=
  ⟨⟨_, rfl⟩, by decide +kernel⟩

theorem test_meets_LawsKept_in_a_quiesce :
    quiescing.mgmt.wf = true ∧ quiescing.restartWf = true ∧ quiescing.storeWf = true ∧ quiescing.poolWf = true ∧
      quiescing.contextsWf = true ∧ quiescing.ownedWf = true ∧ quiescing.atRestInQuiesce = true := by decide +kernel

/-- A gesture with every field at the end of its range. -/
def widest : Gesture := ⟨0xFFFFFF, -3, 1023, 255, 255⟩

theorem test_meets_InboundFramesAreRead :
    widest.inRange ∧ (List.replicate 40 (0 : Byte)).length ≤ 40 ∧ (1 ≤ 24 ∧ 24 ≤ 24) := by
  unfold Gesture.inRange; decide

theorem test_meets_DiscardedFramesLeaveNoTrace :
    tables.linesQuiet ∧ ∀ kind : Fin 5, checkHolds [kindByte (kind.val + 1) 0] = false :=
  ⟨⟨rfl, rfl, rfl⟩, by decide⟩

/-- Each later test of R156 and R158 at the first value that fails it, and a collected frame of a kind that no link knows. -/
theorem test_meets_DiscardedFramesLeaveNoTrace_after_the_check :
    let odd := { tables with gestureRx := ⟨[0x30, 0xD0], false⟩, voiceRx := ⟨[0x60, 0xA0], false⟩ }
    8 ≤ (8 : BitVec 4).toNat ∧ 4 ≤ (4 : BitVec 4).toNat ∧ (14 : BitVec 4) ≠ 15 ∧ (List.replicate 10 (0 : Byte)).length ≠ 9 ∧
      (0xFC : Byte).toInt < -3 ∧ 3 < (4 : Byte).toInt ∧ 1023 < 256 * (4 : Byte).toNat + (0 : Byte).toNat ∧
      40 < (41 : Byte).toNat ∧ ([0, 0] : List Byte).length ≠ (2 : Byte).toNat + 1 ∧ 24 < (25 : Byte).toNat ∧
      24 ≤ (24 : Byte).toNat ∧ odd.power = .running ∧ odd.gestureRx.collected = [0x30, 0xD0] ∧
      (0x30 : Byte).toNat / 16 = 3 ∧ odd.voiceRx.collected = [0x60, 0xA0] ∧ 5 < (0x60 : Byte).toNat / 16 := by decide +kernel

/-- Frames whose check holds and which fail a later test: a GESTURE on slot 8, one with breath 1024, a COMMAND on slot 14, HELLO
with a voice count of 0 and of 25, and HELLO, HOLD, GO and QUIESCE ACK of engine 4. -/
theorem test_frames_that_fail_after_the_check :
    (∀ f ∈ [closed [0x18, 0, 0, 0, 0, 2, 0, 0, 128], closed [0x13, 0, 0, 0, 0, 4, 0, 0, 128], closed [0x2E, 1, 0x41, 0]],
      checkHolds f = true ∧ judgeGestureLink f = none) ∧
    ∀ f ∈ [closed [0x10, 0], closed [0x10, 25], closed [0x14, 8], closed [0x34], closed [0x44], closed [0x54]],
      checkHolds f = true ∧ judgeVoiceLink f = none := by decide +kernel

theorem test_meets_DiscardedFramesLeaveNoTrace_of_a_gesture :
    quiescing.linesQuiet ∧ quiescing.quiesce.phase = .quiescing ∧
      (alone { absentCtx with enabled := false }).linesQuiet ∧
      ((alone { absentCtx with enabled := false }).ctx 2).enabled = false := by
  unfold State.linesQuiet; decide +kernel

theorem test_meets_TransmissionRunsToCompletion :
    State.reset.arbiter.transmitter = none ∧
      ∃ t, exec .selection State.reset = .next t ∧ t.arbiter.transmitter = some ⟨.control, [0x8F, 0x71], 5⟩ :=
  ⟨rfl, _, rfl, by decide +kernel⟩

theorem test_meets_FrameCutAt48Bytes :
    tables.power = .running ∧ (tables.receiver .voice).collected = [] ∧ (tables.receiver .voice).awaitingIdle = false ∧
      (List.replicate 47 (0 : Byte)).length < 48 ∧ 48 ≤ (List.replicate 48 (0 : Byte)).length ∧
      State.reset.power = .running ∧ (State.reset.receiver .gesture).collected = [] ∧
      (State.reset.receiver .gesture).awaitingIdle = true := by decide +kernel

/-- A part in which performer 2 has a context hears gestures. -/
theorem alone_hears (c : Context) : (alone c).hearsGestures := ⟨⟨rfl, rfl, rfl⟩, rfl⟩

theorem owning_hears (c : Context) : (owning c).hearsGestures := ⟨⟨rfl, rfl, rfl⟩, rfl⟩

theorem blow_inRange (keys : KeySet) (breath : Nat) (h : breath ≤ 1023) : (blow keys breath).inRange :=
  ⟨by simp [blow], by simp [blow], h, by simp [blow], by simp [blow]⟩

/-- The curve that performer 2 acts through. -/
def curve2 : Curve := ⟨120, 80, 24, 64, 100, [(80, 0), (300, 6000), (700, 14000), (1023, 16383)],
  [(0, 127), (8, 100), (32, 40), (64, 20)]⟩

/-- Settings with an attack window and a settle time of 0. -/
def promptSettings : Settings := { Settings.default with attackWindow := 0, settleTime := 0 }

/-- A frame that does not cross: one below the threshold of the curve in force. -/
theorem below_threshold (c : Context) (h : (alone c).activeCurve 2 = some curve2) :
    ∀ curve, ¬ (((alone c).ctx 2).bindings.allActive = true ∧ (alone c).activeCurve 2 = some curve ∧
      curve.onsetThreshold ≤ (blow 0x0E 119).breath) := by
  rintro curve ⟨-, hc, hb⟩
  cases Option.some.inj (h.symm.trans hc)
  exact absurd hb (by decide)

theorem test_meets_GestureJoins_below_the_threshold :
    (blow 0x0E 119).inRange ∧ (alone absentCtx).hearsGestures ∧ ((alone absentCtx).ctx 2).enabled = true ∧
      ((alone absentCtx).ctx 2).state = .absent ∧ ((alone absentCtx).ctx 2).bindings.noneAtRest = true ∧
      ∀ curve, ¬ (((alone absentCtx).ctx 2).bindings.allActive = true ∧ (alone absentCtx).activeCurve 2 = some curve ∧
        curve.onsetThreshold ≤ (blow 0x0E 119).breath) :=
  ⟨blow_inRange _ _ (by decide), alone_hears _, rfl, rfl, rfl, below_threshold _ (by decide +kernel)⟩

theorem test_meets_GestureJoins_at_the_threshold :
    (blow 0x0E 120).inRange ∧ (∀ c, (alone c).hearsGestures) ∧
      ∀ c ∈ [absentCtx, { absentCtx with settings := promptSettings }], ((alone c).ctx 2).enabled = true ∧
        ((alone c).ctx 2).state = .absent ∧ ((alone c).ctx 2).bindings.noneAtRest = true ∧
        ((alone c).ctx 2).bindings.allActive = true ∧ (alone c).activeCurve 2 = some curve2 ∧
        curve2.onsetThreshold ≤ (blow 0x0E 120).breath ∧ ((alone c).ctx 2).timers.guard = none :=
  ⟨blow_inRange _ _ (by decide), alone_hears, by decide +kernel⟩

theorem test_meets_GestureJoins_with_and_without_a_window :
    ((alone absentCtx).ctx 2).settings.attackWindow ≠ 0 ∧
      ((alone { absentCtx with settings := promptSettings }).ctx 2).settings.attackWindow = 0 := by decide +kernel

theorem test_meets_GestureCrossesThreshold :
    (blow 0x0E 120).inRange ∧ (∀ c, (alone c).hearsGestures) ∧
      (∀ c ∈ [readyCtx, guardedCtx], ((alone c).ctx 2).enabled = true ∧ ((alone c).ctx 2).state = .ready ∧
        ((alone c).ctx 2).bindings.allActive = true ∧ (alone c).activeCurve 2 = some curve2 ∧
        curve2.onsetThreshold ≤ (blow 0x0E 120).breath) ∧
      ((alone readyCtx).ctx 2).timers.guard = none ∧ ((alone readyCtx).ctx 2).settings.attackWindow ≠ 0 ∧
      ((alone guardedCtx).ctx 2).timers.guard ≠ none :=
  ⟨blow_inRange _ _ (by decide), alone_hears, by decide +kernel⟩

theorem test_meets_GestureCrossesThreshold_below_it :
    (blow 0x0E 119).inRange ∧ (alone readyCtx).hearsGestures ∧ ((alone readyCtx).ctx 2).enabled = true ∧
      ((alone readyCtx).ctx 2).state = .ready ∧
      ∀ curve, ¬ (((alone readyCtx).ctx 2).bindings.allActive = true ∧ (alone readyCtx).activeCurve 2 = some curve ∧
        curve.onsetThreshold ≤ (blow 0x0E 119).breath) :=
  ⟨blow_inRange _ _ (by decide), alone_hears _, rfl, rfl, below_threshold _ (by decide +kernel)⟩

/-- A peak at its least drop, and a frame of one breath more, which is none. -/
theorem test_meets_GestureStartsNote_at_a_peak :
    (∀ breath ∈ [616, 617, 79], (blow 0x0E breath).inRange) ∧ (alone onsetCtx).hearsGestures ∧
      ((alone onsetCtx).ctx 2).enabled = true ∧ (alone onsetCtx).activeCurve 2 = some curve2 ∧
      ((alone onsetCtx).ctx 2).state = .onset ∧ ((alone onsetCtx).ctx 2).onset = some ⟨4, 640⟩ ∧
      curve2.releaseThreshold ≤ 616 ∧ 616 + curve2.peakDrop ≤ max 640 616 ∧ max 640 617 < 617 + curve2.peakDrop ∧
      79 < curve2.releaseThreshold :=
  ⟨by simp only [List.forall_mem_cons]; exact ⟨blow_inRange _ _ (by decide), blow_inRange _ _ (by decide),
    blow_inRange _ _ (by decide), nofun⟩, alone_hears _, by decide +kernel⟩

/-- A READY performer with an attack window of 0. -/
def promptCtx : Context := { readyCtx with settings := promptSettings }

theorem test_meets_GestureStartsNote_at_once :
    (blow 0x0E 120).inRange ∧ (alone promptCtx).hearsGestures ∧ ((alone promptCtx).ctx 2).enabled = true ∧
      (alone promptCtx).activeCurve 2 = some curve2 ∧ ((alone promptCtx).ctx 2).state = .ready ∧
      ((alone promptCtx).ctx 2).bindings.allActive = true ∧ ((alone promptCtx).ctx 2).timers.guard = none ∧
      ((alone promptCtx).ctx 2).settings.attackWindow = 0 ∧ curve2.onsetThreshold ≤ (blow 0x0E 120).breath :=
  ⟨blow_inRange _ _ (by decide), alone_hears _, by decide +kernel⟩

theorem test_meets_GestureReleasesNote :
    (blow 0x0E 79).inRange ∧ (owning soundingCtx).hearsGestures ∧ (owning settlingCtx).hearsGestures ∧
      ((owning soundingCtx).ctx 2).enabled = true ∧ ((owning soundingCtx).ctx 2).state = .sounding ∧
      ((owning settlingCtx).ctx 2).state = .settling ∧ (owning soundingCtx).activeCurve 2 = some curve2 ∧
      (owning settlingCtx).activeCurve 2 = some curve2 ∧ (blow 0x0E 79).breath < curve2.releaseThreshold :=
  ⟨blow_inRange _ _ (by decide), owning_hears _, owning_hears _, by decide +kernel⟩

theorem test_meets_GestureInSoundingNote :
    (blow 0x1E 80).inRange ∧ (∀ c, (owning c).hearsGestures) ∧
      (∀ c ∈ [soundingCtx, settlingCtx, { soundingCtx with settings := promptSettings },
          { settlingCtx with settings := promptSettings }],
        ((owning c).ctx 2).enabled = true ∧ (c.state = .sounding ∨ c.state = .settling) ∧ ((owning c).ctx 2).note ≠ none ∧
          (owning c).activeCurve 2 = some curve2 ∧ curve2.releaseThreshold ≤ (blow 0x1E 80).breath ∧
          ((owning c).ctx 2).lastFrame = some (blow 0x0E 612)) ∧
      (blow 0x0E 612).keys ≠ (blow 0x1E 80).keys ∧
      ¬ ((blow 0x0E 612).keys ≠ (blow 0x0E 80).keys ∨ (blow 0x0E 612).octave ≠ (blow 0x0E 80).octave) ∧
      soundingCtx.settings.settleTime ≠ 0 ∧ promptSettings.settleTime = 0 :=
  ⟨blow_inRange _ _ (by decide), owning_hears, by decide +kernel⟩

/-- A SETTLING performer that sounds a pitch which no zone covers. -/
def silentCtx : Context :=
  { settlingCtx with
    note := some ⟨36, none, 80, []⟩, committedPitch := some 36, glide := .at 36, lastFrame := some ⟨0, 3, 612, 100, 128⟩ }

/-- The commits that move nothing, and one for each kind of transition: silent to silent, in the zone, into another zone. -/
theorem test_meets_SettleExpiryCommits :
    (∀ c ∈ [settlingCtx, silentCtx], c.state = .settling ∧ c.timers.settle ≠ none ∧ c.note ≠ none) ∧
      (owning settlingCtx).resolve 2 (blow 0x0A 612) = none ∧
      (owning settlingCtx).resolve 2 (blow 0x0E 612) = settlingCtx.committedPitch ∧
      (owning settlingCtx).resolve 2 (blow 0x7E 612) = some 62 ∧
      ((owning settlingCtx).zoneFor 2 62).map (·.1) = some 1 ∧
      (owning settlingCtx).resolve 2 (blow 0x04 612) = some 73 ∧
      ((owning settlingCtx).zoneFor 2 73).map (·.1) = some 2 ∧
      (owning silentCtx).resolve 2 ⟨0, 3, 612, 100, 128⟩ = some 108 ∧ (owning silentCtx).zoneFor 2 108 = none := by
  decide +kernel

theorem test_meets_AttackExpiryStartsNote :
    (alone onsetCtx).power = .running ∧ ((alone onsetCtx).ctx 2).state = .onset ∧
      ((alone onsetCtx).ctx 2).timers.attack = some ⟨32, 32⟩ ∧
      ((alone onsetCtx).ctx 2).lastFrame = some (blow 0x0E 640) ∧
      (alone onsetCtx).activeCurve 2 = some curve2 := by decide +kernel

/-- A READY performer with a deferred onset, its last frame at the onset threshold. -/
def deferredCtx : Context := { guardedCtx with deferredOnset := true, lastFrame := some (blow 0x0E 120) }

theorem test_meets_GuardExpiryJudgesDeferredOnset :
    let s := alone deferredCtx
    let prompt := alone { deferredCtx with settings := promptCtx.settings }
    let low := alone guardedCtx
    s.power = .running ∧ (s.ctx 2).state = .ready ∧ (s.ctx 2).timers.guard ≠ none ∧
      (s.ctx 2).lastFrame = some (blow 0x0E 120) ∧ s.activeCurve 2 = some curve2 ∧ (s.ctx 2).deferredOnset = true ∧
      (s.ctx 2).bindings.allActive = true ∧ s.quiesce.phase = .idle ∧
      curve2.onsetThreshold ≤ (blow 0x0E 120).breath ∧ (s.ctx 2).settings.attackWindow ≠ 0 ∧
      (prompt.ctx 2).settings.attackWindow = 0 ∧ (low.ctx 2).deferredOnset = false := by decide +kernel

theorem test_meets_SilenceExpiryLosesPerformer :
    (owning soundingCtx).power = .running ∧ ((owning soundingCtx).ctx 2).state ≠ .absent ∧
      ((owning soundingCtx).ctx 2).timers.silence ≠ none ∧
      ((owning soundingCtx).ctx 2).bindings.noneAtRest = true := by decide +kernel

theorem test_meets_PhraseExpiryApplies :
    (alone readyCtx).power = .running ∧ ((alone readyCtx).ctx 2).state = .ready ∧
      ((alone readyCtx).ctx 2).timers.phrase ≠ none := by decide +kernel

theorem test_meets_GlideStepMovesTowardTarget :
    let s := owning glidingCtx
    s.power = .running ∧ (s.ctx 2).timers.glideStep ≠ none ∧ (s.ctx 2).note ≠ none ∧ (s.ctx 2).glide.wf = true ∧
      (s.ctx 2).glide.current ≠ (s.ctx 2).glide.target := by decide +kernel

theorem test_meets_StoppedTimersDoNotExpire :
    (State.reset.ctx 7).timers = .stopped ∧ (State.reset.voice 95).tailTimer = none ∧
      State.reset.quiesce.limit = none := by decide +kernel

theorem test_meets_FirstMatchDecides :
    let e : MapEntry := ⟨0x0E, 0x7E, 7, false⟩
    let m : FingerMap := ⟨60, 60, [⟨0x01, 0x7F, -12, true⟩, e]⟩
    m.entries = [⟨0x01, 0x7F, -12, true⟩] ++ e :: [] ∧
      (∀ x ∈ [(⟨0x01, 0x7F, -12, true⟩ : MapEntry)], (0x0E : KeySet) &&& x.care ≠ x.keys) ∧
      (0x0E : KeySet) &&& e.care = e.keys ∧ (∀ e ∈ m.entries, (0x0A : KeySet) &&& e.care ≠ e.keys) ∧
      m.baseNote ≤ 127 ∧ -48 ≤ e.offset ∧ e.offset ≤ 48 ∧ (-3 : Int) ≤ 3 ∧ (-24 : Int) ≤ 24 := by decide

/-- The zones of the plan of section 4.10. -/
def zones : Zone × Zone :=
  (⟨40, 71, 20, [⟨0, 12, 0, 100, .glide⟩, ⟨1, 40, -12, 60, .restrike⟩]⟩, ⟨72, 96, 0, [⟨2, 5, 0, 80, .glide⟩]⟩)

/-- A pattern with a pitch, without one under a committed pitch and without either; a pitch that no zone covers and one at the
end of the second zone. -/
theorem test_meets_FirstMatchDecides_at_a_performer :
    (soundingCtx.bindings.map.active = some 0 ∧ ((owning soundingCtx).activeMap 2).isSome = true ∧
      (owning soundingCtx).resolve 2 (blow 0x7E 612) = some 62 ∧ (owning soundingCtx).resolve 2 (blow 0x0A 612) = none ∧
      soundingCtx.committedPitch = some 67 ∧ (alone readyCtx).resolve 2 (blow 0x0A 612) = none ∧
      readyCtx.committedPitch = none) ∧
      (owning soundingCtx).activePlan 2 = [zones.1] ++ zones.2 :: [] ∧
      (∀ z ∈ (owning soundingCtx).activePlan 2, ¬ (z.low ≤ 97 ∧ 97 ≤ z.high)) ∧
      (∀ z ∈ [zones.1], ¬ (z.low ≤ 72 ∧ 72 ≤ z.high)) ∧ zones.2.low ≤ 72 ∧ 72 ≤ zones.2.high := by decide +kernel

theorem test_meets_InterpolationFollowsPoints :
    let points : List (Nat × Nat) := [(80, 0), (300, 6000), (700, 14000)]
    points.Pairwise (fun p q => p.1 < q.1) ∧ points.head? = some (80, 0) ∧ 80 ≤ (80, 0).1 ∧
      points.getLast? = some (700, 14000) ∧ (700, 14000).1 ≤ 700 ∧
      points = [(80, 0)] ++ (300, 6000) :: (700, 14000) :: [] ∧ (300, 6000).1 ≤ 300 ∧ 699 < (700, 14000).1 := by decide

theorem test_meets_InterpolationFollowsPoints_at_a_voice :
    let s := owning soundingCtx
    (s.voice 3).owner = some 2 ∧ (s.voice 3).copy = some ⟨0, 12, 0, 100, .glide⟩ ∧
      (s.voice 31).copy = some ⟨1, 40, -12, 60, .restrike⟩ ∧ s.activeCurve 2 = some curve2 ∧
      (s.ctx 2).lastFrame = some (blow 0x0E 612) := by decide +kernel

theorem test_meets_ChecksumWeighsBytes :
    (tableBlock .plan planTable).kind = some .plan ∧ (tableBlock .plan planTable).header = some [3, 2] := by
  decide +kernel

/-- The five clauses of a retarget, each at a state (R71). -/
theorem test_meets_RetargetFollowsRule :
    ((owning soundingCtx).ctx 2).glide.current = 6700 ∧ ((owning glidingCtx).ctx 2).glide.current ≠ 6900 ∧
      ((owning glidingCtx).ctx 2).timers.glideStep ≠ none ∧
      ((owning soundingCtx).ctx 2).timers.glideStep = none := by decide +kernel

theorem test_meets_AllocationAnswers :
    ((staffed.voice 95).state = .free ∧ (engineOf 72).val = 3 ∧ (staffed.voice 72).state = .free ∧
      ∀ w : VoiceId, (engineOf w).val = 3 → w < 72 → (staffed.voice w).state ≠ .free) ∧
    ∀ v : VoiceId, (engineOf v).val = 0 → (tables.voice v).state ≠ .free ∧ (tables.voice v).state ≠ .releasing ∧
      tables.stealable 2 v = false := by decide +kernel

/-- With no FREE voice the oldest tail, here voice 30, is taken; voices 24 to 29 have a newer one. -/
theorem test_meets_AllocationAnswers_from_a_tail :
    let s := { staffed with voices := (Vector.replicate 96 { tailing with releaseStamp := 4 }).set 30 tailing, timebase := 20 }
    (∀ v : VoiceId, (engineOf v).val = 1 → (s.voice v).state ≠ .free) ∧ (engineOf 30).val = 1 ∧
      (s.voice 30).state = .releasing ∧
      ∀ w : VoiceId, (engineOf w).val = 1 → (s.voice w).state = .releasing →
        s.age (s.voice w).releaseStamp ≤ s.age (s.voice 30).releaseStamp ∧
          (w < 30 → s.age (s.voice w).releaseStamp < s.age (s.voice 30).releaseStamp) := by decide +kernel

/-- All voices SOUNDING: the performer of precedence 4 takes voice 30, the oldest of those of the lowest precedence, and the one
of precedence 1 takes none. -/
def crowded : State :=
  let held (o : Slot) (stamp : Stamp) : Voice :=
    { voiceOf2 1 ⟨1, 40, 0, 60, .glide⟩ with owner := some o, startStamp := stamp }
  let s := { staffed with
    voices := ((Vector.replicate 96 (held 5 4)).set 30 (held 5 0)).set 24 (held 6 0), timebase := 20 }
  ((s.setCtx 2 { soundingCtx with settings := { Settings.default with precedence := 4 } }).setCtx 5
    { soundingCtx with settings := { Settings.default with precedence := 1 } }).setCtx 3
    { soundingCtx with settings := { Settings.default with precedence := 1 } }

theorem test_meets_AllocationAnswers_by_a_steal :
    let robbable (v : VoiceId) (o : Slot) : Prop := (engineOf v).val = 1 ∧ (crowded.voice v).state = .sounding ∧
      (crowded.voice v).owner = some o ∧ o ≠ 2 ∧ (crowded.ctx o).settings.precedence < (crowded.ctx 2).settings.precedence
    (∀ v : VoiceId, (engineOf v).val = 1 → (crowded.voice v).state ≠ .free ∧ (crowded.voice v).state ≠ .releasing) ∧
      robbable 30 5 ∧ robbable 24 6 ∧
      ∀ (w : VoiceId) (p : Slot), robbable w p →
        (crowded.ctx 5).settings.precedence ≤ (crowded.ctx p).settings.precedence ∧
          ((crowded.ctx 5).settings.precedence = (crowded.ctx p).settings.precedence →
            crowded.age (crowded.voice w).startStamp ≤ crowded.age (crowded.voice 30).startStamp ∧
              (w < 30 → crowded.age (crowded.voice w).startStamp < crowded.age (crowded.voice 30).startStamp)) := by
  decide +kernel

theorem test_meets_AllocationAnswers_by_a_denial :
    ∀ (v : VoiceId) (o : Slot), ¬ ((engineOf v).val = 1 ∧ (crowded.voice v).state = .sounding ∧
      (crowded.voice v).owner = some o ∧ o ≠ 3 ∧
        (crowded.ctx o).settings.precedence < (crowded.ctx 3).settings.precedence) := by decide +kernel

theorem test_meets_RetakeRequestKeepsStart :
    let s := (owning soundingCtx).setVoice 31 { voiceOf2 2 ⟨1, 40, 0, 60, .glide⟩ with pending := some (.start 5 80) }
    (s.voice 31).state = .sounding ∧ (s.voice 31).pending = some (.start 5 80) ∧ (s.voice 3).state = .sounding ∧
      (s.voice 3).pending = none := by decide +kernel

theorem test_meets_TailExpiryFreesVoice :
    (staffed.setVoice 95 tailing).power = .running ∧ ((staffed.setVoice 95 tailing).voice 95).state = .releasing ∧
      ((staffed.setVoice 95 tailing).voice 95).tailTimer ≠ none := by decide +kernel

theorem test_meets_TailDoneFreesCurrentTail :
    let s := staffed.setVoice 95 tailing
    (s.power = .running ∧ s.gestureRx.collected = [] ∧ s.voiceRx.collected = []) ∧ voiceAt 3 23 = 95 ∧
      (s.voice 95).tag = 5 ∧ (s.voice 95).state = .releasing ∧ (s.voice 95).pending = none ∧ (s.voice 95).tag ≠ 6 ∧
      4 ≤ (4 : BitVec 4).toNat ∧ 24 ≤ (24 : Byte).toNat := by
  decide +kernel

theorem test_meets_HelloResetsEngine :
    (tables.linesQuiet ∧ quiescing.linesQuiet) ∧ 1 ≤ 24 ∧ 24 ≤ 24 ∧ tables.quiesce.phase = .idle ∧ (1 : EngineId) ≠ 0 ∧
      EngineSet.has quiescing.quiesce.unacknowledged 1 = true :=
  ⟨⟨⟨rfl, rfl, rfl⟩, ⟨rfl, rfl, rfl⟩⟩, by decide +kernel⟩

/-- The same quiesce with engine 1 answered. -/
def lastWaited : State := { quiescing with quiesce := { quiescing.quiesce with acknowledged := 2 } }

theorem test_meets_HelloResetsEngine_that_ends_a_quiesce :
    lastWaited.linesQuiet ∧ lastWaited.quiesce.phase = .quiescing ∧ lastWaited.quiesce.kind = some .sectionOnly ∧
      (∀ x : EngineId, x ≠ 0 → EngineSet.has lastWaited.quiesce.unacknowledged x = false) ∧
      lastWaited.mgmt.inProgress = some ⟨⟨9, 0x70, [1]⟩, .reset⟩ ∧ lastWaited.mgmt.waiting = [] ∧
      lastWaited.mgmt.replies = [] ++ [⟨9, 0x70, none⟩] :=
  ⟨⟨rfl, rfl, rfl⟩, by decide +kernel⟩

theorem test_meets_HoldAndGoSetHeld :
    (staffed.linesQuiet ∧ tables.linesQuiet) ∧ (staffed.engine 3).present = true ∧ (tables.engine 3).present = false :=
  ⟨⟨⟨rfl, rfl, rfl⟩, ⟨rfl, rfl, rfl⟩⟩, by decide +kernel⟩

theorem test_meets_BroadcastHushGoesFirst :
    State.reset.power = .running ∧ State.reset.arbiter.transmitter = none ∧
      State.reset.arbiter.express = some .control ∧ State.reset.broadcastHush = true := by decide +kernel

/-- An engine's QUIESCE in a quiesce that waits for it, its HUSH, and a QUIESCE that no quiesce waits for. -/
theorem test_meets_BroadcastHushGoesFirst_to_an_engine :
    let told (s : State) (f : Control) : State := s.setEngine 1 ⟨true, some 24, false, 125, some f⟩
    let unsent := { quiescing with quiesce := { quiescing.quiesce with sent := 0 } }
    ∀ x ∈ [(told unsent .quiesce, Control.quiesce), (told quiescing .hush, Control.hush),
        (told staffed .quiesce, Control.quiesce)],
      x.1.power = .running ∧ x.1.arbiter.transmitter = none ∧ x.1.restartWf = true ∧
        x.1.choice = some ⟨.control, .engine 1 x.2, none⟩ := by decide +kernel

/-- Performer 2 with a START waiting on voice 31 and a RETAKE on voice 3. -/
def strikes : State :=
  ((owning soundingCtx).setVoice 31 { voiceOf2 2 ⟨1, 40, 0, 60, .glide⟩ with pending := some (.start 5 80) }).setVoice 3
    { voiceOf2 1 ⟨0, 12, 0, 100, .glide⟩ with pending := some (.retake 12 80) }

theorem test_meets_SelectionStrikesVoice :
    let s := { strikes with arbiter := { Arbiter.initial with voicePoints := ⟨some 3, none, none, none, none⟩ } }
    s.power = .running ∧ s.arbiter.transmitter = none ∧ s.choice = some ⟨.start, .voice 31, some .high⟩ ∧
      (s.voice 31).pending = some (.start 5 80) ∧ strikes.choice = some ⟨.start, .voice 3, some .high⟩ ∧
      (strikes.voice 3).pending = some (.retake 12 80) := by decide +kernel

theorem test_meets_SelectionStrikesVoice_with_an_end_or_an_update :
    let flagged (f : Flags) : State := strikes.setVoice 31 { voiceOf2 2 ⟨1, 40, 0, 60, .glide⟩ with flags := f }
    let quiet (f : Flags) : State := (flagged f).setVoice 3 (voiceOf2 1 ⟨0, 12, 0, 100, .glide⟩)
    let ended := staffed.setVoice 95 { tailing with pending := some .ending, tailTimer := none }
    (ended.power = .running ∧ ended.arbiter.transmitter = none ∧ ended.choice = some ⟨.ending, .voice 95, some .high⟩) ∧
      (quiet ⟨true, false, false⟩).choice = some ⟨.pitch, .voice 31, some .mid⟩ ∧
      (quiet ⟨false, true, false⟩).choice = some ⟨.level, .voice 31, some .mid⟩ ∧
      (quiet ⟨false, false, true⟩).choice = some ⟨.timbre, .voice 31, some .low⟩ := by decide +kernel

theorem test_meets_SelectionFollowsPriority :
    strikes.choice = some ⟨.start, .voice 3, some .high⟩ ∧ State.reset.choice = some ⟨.control, .broadcast, none⟩ ∧
      State.reset.arbiter.express = some .control ∧ strikes.arbiter.express ≠ some .start ∧
      strikes.arbiter.bands.get .start = .high ∧ tables.choice = none ∧ State.reset.broadcastHush = true ∧
      strikes.broadcastHush = false := by decide +kernel

theorem test_meets_SelectionFollowsPriority_with_eligible_classes :
    State.reset.classEligible .control ∧ strikes.classEligible .start :=
  ⟨.inr (.inl ⟨rfl, .inl rfl⟩), .inl ⟨3, by decide +kernel, by decide +kernel, 12, 80, .inr (by decide +kernel)⟩⟩

theorem ready_of_idle (s : State) (h : s.mgmt = .initial) (hp : s.power = .running) : s.consoleReady :=
  ⟨hp, by rw [h]; rfl, by rw [h]; rfl, by rw [h]; decide, by rw [h]; nofun⟩

theorem tables_ready : tables.consoleReady := ready_of_idle _ rfl rfl

theorem test_meets_CommandFrameArrives :
    let full := during tables ⟨1, 0x50, [3]⟩ (.erase 3)
    let two := { tables with mgmt := { Management.initial with waiting := [⟨1, 0x11, [0]⟩, ⟨2, 0x11, [0]⟩] } }
    (tables.linesQuiet ∧ tables.consoleReady) ∧ (List.replicate 40 (0 : Byte)).length ≤ 40 ∧
      Cmd.row ⟨1, 0x12, [3]⟩ = some (.performerDisable 1 [3]) ∧ full.mgmt.waiting.length < 2 ∧
      full.mgmt.inProgress ≠ none ∧ 2 ≤ two.mgmt.waiting.length ∧
      tables.carryOut ⟨1, 0x11, [8]⟩ = .refused .badValue [] ∧
      (0xFF : Byte) ∉ ([0x10, 0x11, 0x12, 0x13, 0x20, 0x30, 0x31, 0x32, 0x40, 0x41, 0x50, 0x51, 0x52, 0x53, 0x54, 0x55,
        0x56, 0x57, 0x58, 0x60, 0x70] : List Byte) :=
  ⟨⟨⟨rfl, rfl, rfl⟩, tables_ready⟩, by decide +kernel⟩

/-- A part in which one command waits behind a reply entry that has just become free. -/
def waiting (c : Cmd) : State :=
  { tables with mgmt := { Management.initial with waiting := [c], replies := [⟨7, 0x11, some ⟨none, false, [0]⟩⟩] } }

/-- A waiting command with a row and one without; lists that cannot start; a built reply that is chosen. -/
theorem test_meets_CommandStartTakesHead :
    let blocked := { tables with mgmt := { Management.initial with
      waiting := [⟨1, 0x11, [0]⟩], replies := List.replicate 2 ⟨7, 0x11, some ⟨none, false, [0]⟩⟩ } }
    let queued := { waiting ⟨1, 0x11, [0]⟩ with broadcastHush := false }
    (∀ c ∈ [(⟨1, 0x11, [byte 7]⟩ : Cmd), ⟨1, 0xFF, []⟩],
      (waiting c).power = .running ∧ (waiting c).mgmt.inProgress = none ∧ (waiting c).mgmt.waiting = [c] ∧
        c.params.length ≤ 40 ∧ (waiting c).mgmt.replies.length < 2 ∧ ∀ e ∈ (waiting c).mgmt.replies, e.result ≠ none) ∧
      (⟨1, 0x11, [byte 7]⟩ : Cmd).row = some (.performerEnable 1 [7]) ∧ (⟨1, 0xFF, []⟩ : Cmd).row = none ∧
      tables.mgmt.waiting = [] ∧ (during tables ⟨1, 0x50, [3]⟩ (.erase 3)).mgmt.inProgress ≠ none ∧
      2 ≤ blocked.mgmt.replies.length ∧ queued.arbiter.transmitter = none ∧
      queued.choice = some ⟨.reply, .reply, some .low⟩ ∧
      queued.mgmt.replies = ⟨7, 0x11, some ⟨none, false, [0]⟩⟩ :: [] := by decide +kernel

/-- Two commands that wait with both reply entries free: the first is answered and the second, an erasure, begins. -/
theorem test_two_waiting_commands_start :
    let c : Cmd := ⟨1, 0x11, [7]⟩
    let d : Cmd := ⟨2, 0x50, [23]⟩
    let s := { tables with mgmt := { Management.initial with waiting := [c, d] } }
    s.mgmt.waiting = c :: [d] ∧ s.mgmt.replies.length < 2 ∧ s.startWaiting.mgmt.waiting = [] ∧
      s.startWaiting.mgmt.inProgress = some ⟨d, .erase 23⟩ ∧
      s.startWaiting.mgmt.replies = [⟨1, 0x11, some ⟨none, false, [7]⟩⟩, ⟨2, 0x50, none⟩] := by decide +kernel

theorem test_meets_NoticeMaskGovernsOffers :
    let queued := { tables with mgmt := { Management.initial with notices := [.engineJoined 0], noticesDropped := true } }
    tables.consoleReady ∧ ([] : List Byte).length ≠ 1 ∧ (0x80 : Byte).getLsbD 7 = true ∧
      (0x7F : Byte).getLsbD 7 = false ∧
      tables.mgmt.mask.getLsbD ((Notice.layerDenied 0 3).code - 1) = false ∧
      tables.mgmt.mask.getLsbD ((Notice.storeInterrupted 1).code - 1) = true ∧ tables.mgmt.notices.length < 8 ∧
      8 ≤ { Management.initial with notices := List.replicate 8 (.engineJoined 0) }.notices.length ∧
      queued.power = .running ∧ queued.arbiter.transmitter = none ∧
      queued.choice = some ⟨.notice, .notice, some .low⟩ ∧ queued.mgmt.notices = .engineJoined 0 :: [] :=
  ⟨tables_ready, by decide +kernel⟩

theorem test_meets_PerformerEnable : tables.consoleReady ∧ 8 ≤ (8 : Byte).toNat ∧ (7 : Byte) = byte (7 : Slot).val :=
  ⟨tables_ready, by decide⟩

theorem test_meets_PerformerDisable :
    ((alone absentCtx).consoleReady ∧ (owning soundingCtx).consoleReady) ∧ ((alone absentCtx).ctx 2).state = .absent ∧
      ((alone { absentCtx with enabled := false }).ctx 2).enabled = false ∧
      ((owning soundingCtx).ctx 2).state ≠ .absent ∧ ((owning soundingCtx).ctx 2).enabled = true ∧
      8 ≤ (8 : Byte).toNat :=
  ⟨⟨ready_of_idle _ rfl rfl, ready_of_idle _ rfl rfl⟩, by decide +kernel⟩

theorem test_meets_PerformerSet :
    tables.consoleReady ∧ ([7, 1] : List Byte).length % 2 = 0 ∧ ([] : List Byte).length < 3 ∧
      15 < (List.replicate 17 (1 : Byte)).length ∧ (7 : Byte) = byte (7 : Slot).val ∧
      ([7, 1, 4, 2, 0xE8] : List Byte) = 7 :: [((1 : Byte), (4 : Byte)), (2, 0xE8)].flatMap (fun p => [p.1, p.2]) ∧
      (0xE8 : Byte).toInt = -24 ∧ ([((1 : Byte), (4 : Byte)), (2, 0xE8)].map Prod.fst).Nodup ∧
      ¬ ([((1 : Byte), (4 : Byte)), (1, 1)].map Prod.fst).Nodup ∧ 8 ≤ (8 : Byte).toNat ∧ ¬ 1 ≤ (0 : Byte).toNat :=
  ⟨tables_ready, by decide +kernel⟩

theorem test_meets_BindSetsAndStages :
    ((alone readyCtx).consoleReady ∧ (owning soundingCtx).consoleReady) ∧
      (∀ b : BlockId, some (0 : BlockId) = some b → (tables.block b).state = .valid ∧ (tables.block b).kind = some .map) ∧
      (∀ b : BlockId, (none : Option BlockId) ≠ some b) ∧ ((alone readyCtx).ctx 2).state = .ready ∧
      ((owning soundingCtx).ctx 2).state ≠ .absent ∧ ((owning soundingCtx).ctx 2).state ≠ .ready :=
  ⟨⟨ready_of_idle _ rfl rfl, ready_of_idle _ rfl rfl⟩, by decide +kernel⟩

/-- Each refusal of BIND at the first value past a range, and at a block that is not VALID and one of another kind. -/
theorem test_meets_BindSetsAndStages_refused :
    tables.consoleReady ∧ ([7, 1, 0] : List Byte).length ≠ 4 ∧ 8 ≤ (8 : Byte).toNat ∧ 3 < (4 : Byte).toNat ∧
      2 < (3 : Byte).toNat ∧ (24 ≤ (24 : Byte).toNat ∧ (24 : Byte) ≠ 0xFF) ∧ (24 ≤ (254 : Byte).toNat ∧ (254 : Byte) ≠ 0xFF) ∧
      ([7, 3, 23, 2] : List Byte) = [byte (7 : Slot).val, TableKind.plan.code, byte (23 : BlockId).val, 2] ∧
      (2 : Byte).toNat ≤ 2 ∧ (tables.block 23).state ≠ .valid ∧ (tables.block 0).state = .valid ∧
      (tables.block 0).kind ≠ some .plan :=
  ⟨tables_ready, by decide +kernel⟩

theorem test_meets_BindNowNone :
    ((alone readyCtx).consoleReady ∧ (owning settlingCtx).consoleReady) ∧
      ((alone readyCtx).ctx 2).state.active = false ∧ ((tables.ctx 7).bindings.get .plan).active = none ∧
      ((owning settlingCtx).ctx 2).state.active = true ∧ (((owning settlingCtx).ctx 2).bindings.get .plan).active ≠ none :=
  ⟨⟨ready_of_idle _ rfl rfl, ready_of_idle _ rfl rfl⟩, by decide +kernel⟩

theorem test_meets_EngineSet :
    tables.consoleReady ∧ ([0] : List Byte).length ≠ 2 ∧ 4 ≤ (4 : Byte).toNat ∧
      ([3, 255] : List Byte) = [byte (3 : EngineId).val, 255] ∧ (255 : Byte) ≠ 0 :=
  ⟨tables_ready, by decide⟩

theorem test_meets_ArbiterSet :
    tables.consoleReady ∧ ([0] : List Byte).length ≠ 9 ∧ 8 < (9 : Byte).toNat ∧
      (∃ b ∈ ([1, 1, 1, 1, 1, 1, 1, 4] : List Byte), b.toNat < 1 ∨ 3 < b.toNat) ∧
      ([0, 1, 1, 2, 2, 3, 1, 3, 3] : List Byte) =
        classByte none :: serviceClasses.map (fun c => (BandMap.default.get c).code) :=
  ⟨tables_ready, by decide⟩

theorem test_meets_ReadsChangeNothing :
    tables.consoleReady ∧ (tables.block 2).op = none ∧ (tables.block 2).state ≠ .incomplete ∧
      (tables.block 2).state ≠ .blank ∧ 1 ≤ (1 : Byte).toNat ∧ (8 : Byte).toNat ≤ 8 ∧
      (120 : Byte).toNat + (8 : Byte).toNat ≤ 128 ∧ (tables.block 2).readSize 1 1 ≤ 40 ∧
      (tables.block 23).readSize 120 8 ≤ 40 :=
  ⟨tables_ready, by decide +kernel⟩

/-- Each refusal of a read: a length, the first value past each range, a block in flight or in a state without content, a run
past the last position and one too long for a reply. -/
theorem test_meets_ReadsChangeNothing_refused :
    let busy := tables.setBlock 2 { tableBlock .plan planTable with op := some .lock }
    let cut := tables.setBlock 2 { Block.factory with state := .incomplete }
    tables.consoleReady ∧ ([0, 0] : List Byte).length ≠ 1 ∧ ([0, 0] : List Byte) ≠ [] ∧ ([0, 0] : List Byte).length ≠ 3 ∧
      8 ≤ (8 : Byte).toNat ∧ 4 ≤ (4 : Byte).toNat ∧ 96 ≤ (96 : Byte).toNat ∧ 24 ≤ (24 : Byte).toNat ∧
      (busy.block 2).op ≠ none ∧ (cut.block 2).state = .incomplete ∧ (tables.block 23).state = .blank ∧
      (∀ count ∈ [(0 : Byte), 9], ¬ (1 ≤ count.toNat ∧ count.toNat ≤ 8)) ∧
      ¬ (121 : Byte).toNat + (8 : Byte).toNat ≤ 128 ∧ ¬ (tables.block 2).readSize 1 2 ≤ 40 :=
  ⟨tables_ready, by decide +kernel⟩

/-- The plan's header and first zone, as a write brings them. -/
def headerAndZone : List Byte := [3, 2] ++ zoneImage

/-- The part with the plan of section 4.10 OPEN in block 3 and 999 erasures of block 23. -/
def openPlan : State :=
  (tables.setBlock 3 { tableBlock .plan planTable with state := .opened }).setBlock 23
    { Block.factory with eraseCount := 999 }

theorem test_meets_StoreCommandsBegin :
    openPlan.consoleReady ∧ headerAndZone.length ≤ 38 ∧ (openPlan.block 23).op = none ∧ openPlan.bound 23 = false ∧
      (openPlan.block 23).locked = false ∧ ¬ 1000 ≤ (openPlan.block 23).eraseCount ∧ (openPlan.block 23).state = .blank ∧
      cutImages .plan 8 0 headerAndZone = some [[3, 2], zoneImage] ∧ (openPlan.block 2).op = none ∧
      (openPlan.block 2).state = .valid ∧ (openPlan.block 2).locked = false :=
  ⟨ready_of_idle _ rfl rfl, by decide +kernel⟩

theorem test_meets_StoreCommandsBegin_with_a_commit :
    (openPlan.block 3).op = none ∧ (openPlan.block 3).state = .opened ∧ (openPlan.block 3).kind = some .plan ∧
      (openPlan.block 3).header = some [3, 2] ∧ headerOk .plan [3, 2] = true ∧
      (openPlan.block 3).computedChecksum = 256 * (0x37 : Byte).toNat + (0x07 : Byte).toNat := by decide +kernel

/-- The refusals: a block in flight, bound, locked, worn, of a wrong state; a length; a block out of range. -/
theorem test_meets_StoreCommandsBegin_refused :
    (alone readyCtx).bound 2 = true ∧ (tables.block 2).state = .valid ∧ (tables.block 2).state ≠ .opened ∧
      ([0, 0] : List Byte).length ≠ 1 ∧ ([0] : List Byte).length < 2 ∧ ([0, 0] : List Byte).length ≠ 3 ∧
      24 ≤ (24 : Byte).toNat ∧ (List.replicate 38 (0 : Byte)).length ≤ 38 := by decide +kernel

/-- A block that no erasure takes any more. -/
def wornBlock : Block := { tableBlock .plan planTable with locked := true, eraseCount := 1000 }

/-- The part with a number of worn blocks from block 0 on. -/
def worn (n : Nat) : State := tables.mapBlocks fun b r => if b.val < n then wornBlock else r

theorem test_meets_StoreClearBegins :
    ((alone readyCtx).consoleReady ∧ tables.consoleReady ∧ (worn 1).consoleReady) ∧ (List.replicate 40 (0 : Byte)) ≠ [] ∧
      (alone readyCtx).bound 0 = true ∧ (∀ x, tables.bound x = false) ∧ (tables.block 0).eraseCount < 1000 ∧
      (∀ x, (worn 1).bound x = false) ∧ 1000 ≤ ((worn 1).block 0).eraseCount ∧ ((worn 1).block 0).locked = true :=
  ⟨⟨ready_of_idle _ rfl rfl, tables_ready, ready_of_idle _ rfl rfl⟩, by decide +kernel⟩

theorem test_meets_StoreOperationsComplete :
    let c : Cmd := ⟨1, 0x51, byte 23 :: 0 :: headerAndZone⟩
    let s := during tables c (.write 23 0 [[3, 2], zoneImage])
    s.power = .running ∧ s.mgmt.waiting = [] ∧ s.mgmt.replies = [] ++ [⟨c.tag, c.code, none⟩] ∧
      s.mgmt.inProgress = some ⟨c, .write 23 0 [[3, 2], zoneImage]⟩ ∧ cellsWf (s.block 23).cells = true ∧
      (during tables c (.erase 23)).mgmt.inProgress = some ⟨c, .erase 23⟩ ∧
      (during tables c (.commit 23)).mgmt.inProgress = some ⟨c, .commit 23⟩ ∧
      (during tables c (.lock 23)).mgmt.inProgress = some ⟨c, .lock 23⟩ := by decide +kernel

/-- A command that waits behind an erasure is taken within the completion, against the store as it leaves it (R167). -/
theorem test_waiting_command_starts_at_a_completion :
    let c : Cmd := ⟨1, 0x50, [23]⟩
    let s := during tables c (.erase 23)
    let t := { s with mgmt := { s.mgmt with waiting := [⟨2, 0x57, [23]⟩] } }.erasureDone
    t.mgmt.waiting = [] ∧ t.mgmt.inProgress = none ∧ t.mgmt.replies.map (·.tag) = [1, 2] ∧
      ∀ e ∈ t.mgmt.replies, e.result ≠ none := by decide +kernel

/-- After an erasure and after a worn block: the next block, worn or not, and the last. -/
theorem test_meets_StoreClearGoesOn :
    let c : Cmd := ⟨1, 0x58, []⟩
    ∀ w ∈ [Work.storeClear 22 22 0, .storeClear 23 23 0, .passOver 22 22 0, .passOver 23 22 0x400000],
      ∀ s ∈ [during tables c w, during (worn 24) c w],
        s.power = .running ∧ s.mgmt.inProgress = some ⟨c, w⟩ ∧ s.mgmt.replies = [] ++ [⟨c.tag, c.code, none⟩] ∧
          s.mgmt.waiting = [] ∧ (23 : BlockId).val = (22 : BlockId).val + 1 := by decide +kernel

theorem test_meets_StoreClearGoesOn_to_either_kind_of_block :
    (tables.block 23).eraseCount < 1000 ∧ 1000 ≤ ((worn 24).block 23).eraseCount := by decide +kernel

theorem test_meets_ResetBeginsQuiesce :
    ((owning soundingCtx).consoleReady ∧ (alone soundingCtx).consoleReady ∧ tables.consoleReady) ∧
      ((owning soundingCtx).engine 3).present = true ∧ (1 : Byte) ≠ 0 ∧
      ((owning soundingCtx).ctx 2).state.active = true ∧ ((owning soundingCtx).ctx 7).state.active = false ∧
      ∀ e, (tables.engine e).present = false :=
  ⟨⟨ready_of_idle _ rfl rfl, ready_of_idle _ rfl rfl, tables_ready⟩, by decide +kernel⟩

/-- Each refusal of RESET, and the accepted forms with and without a limit. -/
theorem test_meets_ResetBeginsQuiesce_parameters :
    tables.consoleReady ∧ ([] : List Byte).length ≠ 1 ∧ ([1, 2, 3] : List Byte).length ≠ 2 ∧ (0 : Byte) ≠ 1 ∧
      (3 : Byte) ≠ 2 ∧ ([2] : List Byte) = [2] ∧ ([1, 255] : List Byte) = [1, 255] ∧ (255 : Byte) ≠ 0 :=
  ⟨tables_ready, by decide⟩

theorem test_meets_QuiesceAckCounts :
    (quiescing.linesQuiet ∧ lastWaited.linesQuiet) ∧ quiescing.restartWf = true ∧ quiescing.quiesce.phase = .quiescing ∧
      EngineSet.has quiescing.quiesce.waited 0 = true ∧ EngineSet.has quiescing.quiesce.sent 0 = true ∧
      EngineSet.has quiescing.quiesce.acknowledged 0 = false ∧ (1 : EngineId) ≠ 0 ∧
      EngineSet.has quiescing.quiesce.unacknowledged 1 = true ∧ EngineSet.has quiescing.quiesce.waited 3 = false :=
  ⟨⟨⟨rfl, rfl, rfl⟩, ⟨rfl, rfl, rfl⟩⟩, by decide +kernel⟩

/-- The last answer of a quiesce of each kind, with a command waiting and with none. -/
theorem test_meets_QuiesceAckCounts_as_the_last :
    ∀ kind ∈ [ResetKind.sectionOnly, .full], ∀ commands ∈ [[], [(⟨1, 0x11, [0]⟩ : Cmd)]],
      let s := { lastWaited with
        quiesce := { lastWaited.quiesce with kind := some kind }
        mgmt := { lastWaited.mgmt with waiting := commands } }
      s.restartWf = true ∧ s.quiesce.kind = some kind ∧ s.mgmt.inProgress = some ⟨⟨9, 0x70, [1]⟩, .reset⟩ ∧
        s.mgmt.replies = [] ++ [⟨9, 0x70, none⟩] ∧
        (∀ x : EngineId, x ≠ 0 → EngineSet.has s.quiesce.unacknowledged x = false) ∧ s.mgmt.waiting = commands := by
  decide +kernel

theorem test_meets_LimitExpiryForces :
    ∀ kind ∈ [ResetKind.sectionOnly, .full],
      let s := { quiescing with quiesce := { quiescing.quiesce with kind := some kind } }
      s.power = .running ∧ s.quiesce.phase = .quiescing ∧ s.quiesce.kind = some kind ∧ s.quiesce.limit ≠ none ∧
        s.mgmt.inProgress = some ⟨⟨9, 0x70, [1]⟩, .reset⟩ ∧ s.mgmt.waiting = [] ∧
        s.mgmt.replies = [] ++ [⟨9, 0x70, none⟩] := by decide +kernel

theorem test_meets_HardResetClearsVolatileState : 9 < 10 ∧ 10 ≤ 10 ∧ State.reset.power ≠ .off := by decide

theorem test_meets_StartUpMarksInterruptedBlocks :
    let s := State.reset.cleared .inReset
    let cut := (tables.setBlock 23 { Block.factory with op := some .write }).cleared .inReset
    s.power = .inReset ∧ (∀ b, (s.block b).op = none) ∧ cut.power = .inReset ∧ (cut.block 23).op ≠ none ∧
      State.reset.power = .running ∧ (State.reset.cleared .off).power = .off ∧
      ∃ u, exec (.hardReset .powerOn) (State.reset.cleared .off) = .next u :=
  ⟨rfl, by decide +kernel, rfl, by decide +kernel, rfl, rfl, _, rfl⟩

end Sys2Proof.Tests
end

section
/-! PROOFS. The performer contexts: the loss of a performer by its silence expiry (R10, R11) and the console commands PERFORMER
DISABLE, PERFORMER SET and PERFORMER ENABLE (R13, R14, R16, R18). -/

namespace Sys2Proof.Machine

/-! ### The rows as events -/

theorem exec_silenceExpiry (s : State) (i : Slot) (h : s.power = .running) :
    exec (.silenceExpiry i) s = .next (s.silenceExpiry i) :=
  congrArg Host.Outcome.next (s.whenRunning_running _ h)

theorem exec_performerSet (s : State) (tag : Byte) (params : List Byte) :
    exec (.performerSet tag params) s = .next (s.consoleCommand 0x10 tag params) := rfl

theorem exec_performerEnable (s : State) (tag : Byte) (params : List Byte) :
    exec (.performerEnable tag params) s = .next (s.consoleCommand 0x11 tag params) := rfl

theorem exec_performerDisable (s : State) (tag : Byte) (params : List Byte) :
    exec (.performerDisable tag params) s = .next (s.consoleCommand 0x12 tag params) := rfl

/-! ### Console commands that act on the section -/

/-- A state with the section of another: its contexts, its voice records, its notice queue and flag. -/
def State.withSection (s t : State) : State :=
  { s with
    contexts := t.contexts
    voices := t.voices
    mgmt := { s.mgmt with notices := t.mgmt.notices, noticesDropped := t.mgmt.noticesDropped } }

theorem State.onlySection_withSection (s t : State) : s.onlySection (s.withSection t) := rfl

/-- A console command at a ready console that takes no time and acts on the section only: its reply, and the section as the
command leaves it (R167, R169). -/
theorem State.consoleCommand_section (s t : State) (code tag : Byte) (params data : List Byte) (h : s.consoleReady)
    (hn : params.length ≤ 40) (hc : (s.held tag code).carryOut ⟨tag, code, params⟩ = .done t data)
    (ht : (s.held tag code).onlySection t) :
    s.consoleCommand code tag params = (s.answered tag code none data).withSection t := by
  have ⟨_, hidle, _⟩ := h
  have hreplies : t.mgmt.replies = s.mgmt.replies ++ [⟨tag, code, none⟩] := by rw [ht]; rfl
  rw [s.consoleCommand_ready _ _ _ h hn, s.startHeld_done t ⟨tag, code, params⟩ _ h hc hreplies, ht]
  simp only [State.held, State.answered, State.withSection, hidle]

/-- A console command at a ready console that takes no time and changes one context. -/
theorem State.consoleCommand_setCtx (s : State) (i : Slot) (c : Context) (code tag : Byte) (params data : List Byte)
    (h : s.consoleReady) (hn : params.length ≤ 40)
    (hc : (s.held tag code).carryOut ⟨tag, code, params⟩ = .done ((s.held tag code).setCtx i c) data) :
    s.consoleCommand code tag params = (s.answered tag code none data).setCtx i c :=
  s.consoleCommand_done _ code tag params data h hn hc rfl

/-! ### A performer that leaves (R10, R11, R13) -/

/-- A performer given up and left ABSENT: the voices of its note have had their end requests, its staged AT REST bindings are
applied, and applying them offers the only notices. -/
theorem State.abandon_enterAbsent_spec (s : State) (i : Slot) :
    let t := (s.abandon i).enterAbsent i
    s.onlySection t ∧ t.mgmt = (s.applyAll i .atRest).mgmt ∧ s.voicesEnded t i ∧ s.otherContexts t i ∧
      t.ctx i = { (s.ctx i).leave with bindings := (s.ctx i).bindings.appliedAll .atRest } := by
  intro t
  have hsection : s.onlySection t := (s.onlySection_abandon i).trans
    ((State.onlySection_setCtx _ _ _).trans (State.onlySection_applyAll _ _ _))
  refine ⟨hsection, ?_, fun v => ?_, fun j hj => ?_, ?_⟩ <;> simp only [t, State.enterAbsent]
  · exact State.applyAll_mgmt_congr .atRest (by simp [State.abandon_eq, Context.leave]) (by simp [State.abandon_eq])
  · rw [State.voice_of_voices (State.applyAll_voices _ _ _), State.abandon_eq]
    simp
  · rw [State.applyAll_ctx_ne _ _ _ _ hj, State.abandon_eq]
    simp [State.ctx_setCtx_ne, hj]
  · rw [State.applyAll_ctx, State.abandon_eq]
    simp [Context.leave]

/-- The silence expiry of a present performer (R10). -/
theorem State.silenceExpiry_present (s : State) (i : Slot) (hp : (s.ctx i).state ≠ .absent)
    (ht : (s.ctx i).timers.silence ≠ none) :
    s.silenceExpiry i = ((s.abandon i).enterAbsent i).offer (.performerLost i) := by
  have hrun : (s.ctx i).timers.silence.running = true := Option.isSome_iff_ne_none.2 ht
  unfold State.silenceExpiry
  simp only [hrun, if_true]
  cases hs : (s.ctx i).state with
  | absent => exact absurd hs hp
  | ready | onset | sounding | settling => rfl

theorem State.voicesEnded.offer {s t : State} {i : Slot} (h : s.voicesEnded t i) (n : Notice) :
    s.voicesEnded (t.offer n) i := fun v => (t.voice_offer n v).trans (h v)

theorem State.otherContexts.offer {s t : State} {i : Slot} (h : s.otherContexts t i) (n : Notice) :
    s.otherContexts (t.offer n) i := fun j hj => (t.ctx_offer n j).trans (h j hj)

/-- Settles O24: the performer is given up and left ABSENT, and the notice is offered on top of that. -/
theorem silenceExpiryLosesPerformer : Obligations.SilenceExpiryLosesPerformer := by
  unfold Obligations.SilenceExpiryLosesPerformer
  intro s i hrun hp ht
  obtain ⟨hsection, hmgmt, hvoices, hothers, hctx⟩ := s.abandon_enterAbsent_spec i
  refine ⟨((s.abandon i).enterAbsent i).offer (.performerLost i), (s.abandon i).enterAbsent i, ?_, rfl, hsection, hmgmt,
    hvoices.offer _, hothers.offer _, (State.ctx_offer _ _ i).trans hctx⟩
  rw [exec_silenceExpiry s i hrun, s.silenceExpiry_present i hp ht]

/-! ### PERFORMER DISABLE (R13) -/

/-- A performer that is ABSENT or disabled already is only disabled. -/
theorem State.disable_not_present (s : State) (i : Slot) (h : (s.ctx i).state = .absent ∨ (s.ctx i).enabled = false) :
    s.disable i = s.setCtx i { s.ctx i with enabled := false } := by
  unfold State.disable
  cases he : (s.ctx i).enabled with
  | false =>
    have hsame : ({ s.ctx i with enabled := false } : Context) = s.ctx i := by rw [← he]
    simp only [he, Bool.false_eq_true, if_false, hsame, State.setCtx_same]
  | true =>
    have ha : (s.ctx i).state = .absent := h.resolve_right (by simp [he])
    simp only [he, if_true, ha, State.updCtx_eq]

/-- A present performer is disabled and then given up. -/
theorem State.disable_present (s : State) (i : Slot) (hp : (s.ctx i).state ≠ .absent) (he : (s.ctx i).enabled = true) :
    s.disable i = ((s.setCtx i { s.ctx i with enabled := false }).abandon i).enterAbsent i := by
  unfold State.disable
  rw [if_pos he]
  dsimp only
  split
  · next hs => exact absurd hs hp
  all_goals rw [State.updCtx_eq]

/-- PERFORMER DISABLE of a present performer: what R11 leaves, seen from the state before it was disabled. -/
theorem State.disable_present_spec (s : State) (i : Slot) (hp : (s.ctx i).state ≠ .absent)
    (he : (s.ctx i).enabled = true) :
    let t := s.disable i
    s.onlySection t ∧ s.voicesEnded t i ∧ s.otherContexts t i ∧
      t.ctx i = { (s.ctx i).leave with enabled := false, bindings := (s.ctx i).bindings.appliedAll .atRest } ∧
      t.mgmt = (s.applyAll i .atRest).mgmt := by
  intro t
  have hdis : t = ((s.setCtx i { s.ctx i with enabled := false }).abandon i).enterAbsent i := s.disable_present i hp he
  obtain ⟨hsection, hmgmt, hvoices, hothers, hctx⟩ :=
    (s.setCtx i { s.ctx i with enabled := false }).abandon_enterAbsent_spec i
  rw [← hdis] at hsection hmgmt hvoices hothers hctx
  refine ⟨(State.onlySection_setCtx _ _ _).trans hsection, fun v => ?_, fun j hj => ?_, ?_, ?_⟩
  · have hnote : ((s.setCtx i { s.ctx i with enabled := false }).ctx i).noteVoices = (s.ctx i).noteVoices := by
      rw [State.ctx_setCtx_same]; rfl
    have hv := hvoices v
    rw [hnote] at hv
    exact hv
  · rw [hothers j hj, State.ctx_setCtx_ne _ _ _ _ hj]
  · simpa [Context.leave] using hctx
  · rw [hmgmt]
    exact State.applyAll_mgmt_congr .atRest (by simp) rfl

theorem State.performerDisable_slot (s : State) (i : Slot) :
    s.performerDisable [byte i.val] = .done (s.disable i) [byte i.val, (s.ctx i).state.code] := by
  simp only [State.performerDisable, indexOf_byte i (by decide)]

theorem State.performerDisable_outside (s : State) (x : Byte) (h : 8 ≤ x.toNat) : s.performerDisable [x] = badValue := by
  simp only [State.performerDisable, indexOf_outside x h]

/-- PERFORMER DISABLE of a slot in range, for any state of the performer (R13). -/
theorem State.consoleCommand_disable (s : State) (tag : Byte) (i : Slot) (h : s.consoleReady)
    (ht : (s.held tag 0x12).onlySection ((s.held tag 0x12).disable i)) :
    s.consoleCommand 0x12 tag [byte i.val] =
      (s.answered tag 0x12 none [byte i.val, (s.ctx i).state.code]).withSection ((s.held tag 0x12).disable i) :=
  s.consoleCommand_section _ 0x12 tag [byte i.val] _ h (by simp)
    ((State.carryOut_performerDisable _ tag _).trans (State.performerDisable_slot _ i)) ht

/-- Settles O45: by whether the performer is present. -/
theorem performerDisable : Obligations.PerformerDisable := by
  unfold Obligations.PerformerDisable
  intro s tag h
  refine ⟨fun x hx => ?_, fun i => ⟨fun hi => ?_, fun hp he => ?_⟩⟩
  · rw [exec_performerDisable, s.consoleCommand_refused 0x12 tag [x] .badValue [] h (by simp)
      ((State.carryOut_performerDisable _ tag _).trans (State.performerDisable_outside _ x hx))]
  · have hdis : (s.held tag 0x12).disable i = (s.held tag 0x12).setCtx i { s.ctx i with enabled := false } :=
      (s.held tag 0x12).disable_not_present i hi
    rw [exec_performerDisable, s.consoleCommand_disable tag i h (by rw [hdis]; rfl), hdis]
    rfl
  · obtain ⟨hsection, hvoices, hothers, hctx, hmgmt⟩ := (s.held tag 0x12).disable_present_spec i hp he
    obtain ⟨hnotices, hdropped⟩ := State.applyAll_offers (s := s.held tag 0x12) (t := s) (i := i) .atRest
      ⟨rfl, rfl, rfl, rfl⟩
    exact ⟨_, congrArg Host.Outcome.next (s.consoleCommand_disable tag i h hsection), hvoices, hothers,
      State.onlySection_withSection _ _, (congrArg Management.notices hmgmt).trans hnotices,
      (congrArg Management.noticesDropped hmgmt).trans hdropped, hctx⟩

/-! ### PERFORMER SET (R16, R18) -/

/-- The value of a setting number is in its range (R16). -/
def settingInRange (p : Byte × Byte) : Prop :=
  (p.1 = 1 ∧ 1 ≤ p.2.toNat ∧ p.2.toNat ≤ 4) ∨ (p.1 = 2 ∧ -24 ≤ p.2.toInt ∧ p.2.toInt ≤ 24) ∨ p.1 = 3 ∨ p.1 = 4 ∨
    p.1 = 5 ∨ (p.1 = 6 ∧ 1 ≤ p.2.toNat) ∨ (p.1 = 7 ∧ 1 ≤ p.2.toNat)

theorem settingOk_iff (p : Byte × Byte) : settingOk p.1.toNat p.2 = true ↔ settingInRange p := by
  obtain ⟨n, v⟩ := p
  simp only [settingInRange, ← BitVec.toNat_inj]
  unfold settingOk
  split <;> simp_all

/-- The pairs of a parameter list, their setting numbers still bytes. -/
theorem pairsOf_flatMap (pairs : List (Byte × Byte)) :
    pairsOf (pairs.flatMap fun p => [p.1, p.2]) = pairs.map fun p => (p.1.toNat, p.2) := by
  induction pairs with
  | nil => rfl
  | cons p ps ih => simp [pairsOf, ih]

theorem length_flatMap_pair (pairs : List (Byte × Byte)) :
    (pairs.flatMap fun p => [p.1, p.2]).length = 2 * pairs.length := by
  simp [List.length_flatMap, Nat.mul_comm]

/-- The pairs may be set exactly when every value is in range and no number is given twice (R18). -/
theorem pairsOk_iff (pairs : List (Byte × Byte)) :
    pairsOk (pairs.map fun p => (p.1.toNat, p.2)) = true ↔
      (∀ p ∈ pairs, settingInRange p) ∧ (pairs.map Prod.fst).Nodup := by
  have hnumbers : ((pairs.map fun p => (p.1.toNat, p.2)).map (·.1)) = (pairs.map Prod.fst).map BitVec.toNat := by simp
  have hinj : Function.Injective (BitVec.toNat (w := 8)) := fun _ _ => BitVec.eq_of_toNat_eq
  simp only [pairsOk, hnumbers, Bool.and_eq_true, decide_eq_true_eq, List.nodup_map_iff hinj, List.all_map,
    List.all_eq_true, Function.comp_apply, settingOk_iff]
  exact and_comm

/-- The settings after every named one is set, in the order given (R18). -/
def Settings.putAll (x : Settings) (pairs : List (Byte × Byte)) : Settings :=
  pairs.foldl (fun x p => x.put p.1.toNat p.2) x

/-- One setting is set, its number decides which (R16). -/
theorem Settings.put_eq (x : Settings) (n : Nat) (v : Byte) :
    x.put n v = {
      precedence := if n = 1 then v.toNat else x.precedence
      transpose := if n = 2 then v.toInt else x.transpose
      settleTime := if n = 3 then v.toNat else x.settleTime
      attackWindow := if n = 4 then v.toNat else x.attackWindow
      guardTime := if n = 5 then v.toNat else x.guardTime
      silenceLimit := if n = 6 then v.toNat else x.silenceLimit
      phraseGap := if n = 7 then v.toNat else x.phraseGap } := by
  unfold Settings.put
  split <;> simp_all

/-- A setting has a number and a reading of the byte: setting that number gives it the value, setting another leaves it. -/
def Settings.Numbered {α : Type} (read : Settings → α) (number : Byte) (value : Byte → α) : Prop :=
  ∀ x n v, read (Settings.put x n v) = if n = number.toNat then value v else read x

theorem Settings.numbered_precedence : Settings.Numbered Settings.precedence 1 BitVec.toNat :=
  fun x n v => congrArg Settings.precedence (x.put_eq n v)

theorem Settings.numbered_transpose : Settings.Numbered Settings.transpose 2 BitVec.toInt :=
  fun x n v => congrArg Settings.transpose (x.put_eq n v)

theorem Settings.numbered_settleTime : Settings.Numbered Settings.settleTime 3 BitVec.toNat :=
  fun x n v => congrArg Settings.settleTime (x.put_eq n v)

theorem Settings.numbered_attackWindow : Settings.Numbered Settings.attackWindow 4 BitVec.toNat :=
  fun x n v => congrArg Settings.attackWindow (x.put_eq n v)

theorem Settings.numbered_guardTime : Settings.Numbered Settings.guardTime 5 BitVec.toNat :=
  fun x n v => congrArg Settings.guardTime (x.put_eq n v)

theorem Settings.numbered_silenceLimit : Settings.Numbered Settings.silenceLimit 6 BitVec.toNat :=
  fun x n v => congrArg Settings.silenceLimit (x.put_eq n v)

theorem Settings.numbered_phraseGap : Settings.Numbered Settings.phraseGap 7 BitVec.toNat :=
  fun x n v => congrArg Settings.phraseGap (x.put_eq n v)

/-- The value that pairs name for a setting number, with one to keep when they name none. -/
def namedValue {α : Type} (pairs : List (Byte × Byte)) (number : Byte) (value : Byte → α) (old : α) : α :=
  match pairs.find? fun p => p.1 == number with
  | some p => value p.2
  | none => old

/-- With no number given twice, a setting takes the value named for its number, and without one keeps its own (R18). -/
theorem Settings.Numbered.putAll {α : Type} {read : Settings → α} {number : Byte} {value : Byte → α}
    (h : Settings.Numbered read number value) (pairs : List (Byte × Byte)) (hd : (pairs.map Prod.fst).Nodup)
    (x : Settings) :
    read (x.putAll pairs) = namedValue pairs number value (read x) := by
  induction pairs generalizing x with
  | nil => rfl
  | cons p ps ih =>
    obtain ⟨hp, hps⟩ := List.nodup_cons.1 hd
    have htail : read (x.putAll (p :: ps)) = _ := ih hps (x.put p.1.toNat p.2)
    simp only [h x, BitVec.toNat_inj] at htail
    by_cases hn : p.1 = number
    · have hnone : (ps.find? fun q => q.1 == number) = none :=
        List.find?_eq_none.2 fun q hq hqn => hp (by
          rw [hn, ← beq_iff_eq.1 hqn]
          exact List.mem_map_of_mem hq)
      simp [htail, namedValue, hnone, hn]
    · simp [htail, namedValue, hn]

/-- A length that is not a slot and one to seven whole pairs is refused (R18). -/
theorem State.performerSet_badLength (s : State) (params : List Byte)
    (h : params.length % 2 = 0 ∨ params.length < 3 ∨ 15 < params.length) : s.performerSet params = badLength := by
  cases params with
  | nil => rfl
  | cons x rest =>
    have hlength : ¬(rest.length % 2 = 0 ∧ 2 ≤ rest.length ∧ rest.length ≤ 14) := by
      rw [List.length_cons] at h
      omega
    simp only [State.performerSet, hlength, if_false]

/-- PERFORMER SET of one to seven whole pairs: the slot and the pairs are judged, then every pair is set (R18). -/
theorem State.performerSet_pairs (s : State) (x : Byte) (pairs : List (Byte × Byte)) (h1 : 1 ≤ pairs.length)
    (h7 : pairs.length ≤ 7) :
    s.performerSet (x :: pairs.flatMap fun p => [p.1, p.2]) =
      (indexOf 8 x).elim badValue fun i =>
        if pairsOk (pairs.map fun p => (p.1.toNat, p.2)) then
          .done (s.setCtx i { s.ctx i with settings := (s.ctx i).settings.putAll pairs })
            (x :: ((s.ctx i).settings.putAll pairs).bytes)
        else badValue := by
  have hlength : 2 * pairs.length % 2 = 0 ∧ 2 ≤ 2 * pairs.length ∧ 2 * pairs.length ≤ 14 := by omega
  simp only [State.performerSet, length_flatMap_pair, hlength, and_self, if_true, pairsOf_flatMap, List.foldl_map]
  cases indexOf 8 x <;> rfl

theorem State.performerSet_badValue (s : State) (x : Byte) (pairs : List (Byte × Byte)) (h1 : 1 ≤ pairs.length)
    (h7 : pairs.length ≤ 7)
    (h : 8 ≤ x.toNat ∨ (∃ p ∈ pairs, ¬ settingInRange p) ∨ ¬ (pairs.map Prod.fst).Nodup) :
    s.performerSet (x :: pairs.flatMap fun p => [p.1, p.2]) = badValue := by
  rw [s.performerSet_pairs x pairs h1 h7]
  cases hx : indexOf 8 x with
  | none => rfl
  | some i =>
    have hslot : ¬ 8 ≤ x.toNat := fun hle => by simp [indexOf_outside x hle] at hx
    have hpairs : ¬ pairsOk (pairs.map fun p => (p.1.toNat, p.2)) = true := by
      rw [pairsOk_iff]
      rintro ⟨hrange, hnodup⟩
      obtain hle | ⟨p, hp, hout⟩ | htwice := h
      · exact hslot hle
      · exact hout (hrange p hp)
      · exact htwice hnodup
    rw [Option.elim_some, if_neg hpairs]

theorem State.performerSet_done (s : State) (i : Slot) (pairs : List (Byte × Byte)) (h1 : 1 ≤ pairs.length)
    (h7 : pairs.length ≤ 7) (hrange : ∀ p ∈ pairs, settingInRange p) (hnodup : (pairs.map Prod.fst).Nodup) :
    s.performerSet (byte i.val :: pairs.flatMap fun p => [p.1, p.2]) =
      .done (s.setCtx i { s.ctx i with settings := (s.ctx i).settings.putAll pairs })
        (byte i.val :: ((s.ctx i).settings.putAll pairs).bytes) := by
  have hpairs : pairsOk (pairs.map fun p => (p.1.toNat, p.2)) = true := (pairsOk_iff pairs).2 ⟨hrange, hnodup⟩
  simp only [s.performerSet_pairs _ pairs h1 h7, indexOf_byte i (by decide), Option.elim_some, hpairs, if_true]

/-- Settles O46: the settings are those of the context with every pair set. -/
theorem performerSet : Obligations.PerformerSet := by
  unfold Obligations.PerformerSet
  intro s tag params h hn
  refine ⟨fun hlength => ?_, ?_⟩
  · rw [exec_performerSet, s.consoleCommand_refused 0x10 tag params .badLength [] h hn
      ((State.carryOut_performerSet _ tag _).trans (State.performerSet_badLength _ params hlength))]
  rintro x pairs rfl h1 h7
  refine ⟨fun hbad => ?_, ?_⟩
  · rw [exec_performerSet, s.consoleCommand_refused 0x10 tag _ .badValue [] h hn
      ((State.carryOut_performerSet _ tag _).trans (State.performerSet_badValue _ x pairs h1 h7 hbad))]
  rintro i rfl hrange hd
  refine ⟨(s.ctx i).settings.putAll pairs, ?_, ?_⟩
  · rw [exec_performerSet, s.consoleCommand_setCtx i _ 0x10 tag _ _ h hn
      ((State.carryOut_performerSet _ tag _).trans (State.performerSet_done _ i pairs h1 h7 hrange hd))]
    rfl
  exact ⟨Settings.numbered_precedence.putAll pairs hd _,
    Settings.numbered_settleTime.putAll pairs hd _,
    Settings.numbered_attackWindow.putAll pairs hd _,
    Settings.numbered_guardTime.putAll pairs hd _,
    Settings.numbered_silenceLimit.putAll pairs hd _,
    Settings.numbered_phraseGap.putAll pairs hd _,
    Settings.numbered_transpose.putAll pairs hd _⟩

/-! ### PERFORMER ENABLE (R14) -/

theorem State.performerEnable_slot (s : State) (i : Slot) :
    s.performerEnable [byte i.val] = .done (s.setCtx i { s.ctx i with enabled := true }) [byte i.val] := by
  simp only [State.performerEnable, indexOf_byte i (by decide), State.updCtx_eq]

theorem State.performerEnable_outside (s : State) (x : Byte) (h : 8 ≤ x.toNat) : s.performerEnable [x] = badValue := by
  simp only [State.performerEnable, indexOf_outside x h]

/-- Settles O44: by whether the byte names a slot. -/
theorem performerEnable : Obligations.PerformerEnable := by
  unfold Obligations.PerformerEnable
  intro s tag x h
  refine ⟨fun hx => ?_, ?_⟩
  · rw [exec_performerEnable, s.consoleCommand_refused 0x11 tag [x] .badValue [] h (by simp)
      ((State.carryOut_performerEnable _ tag _).trans (State.performerEnable_outside _ x hx))]
  · rintro i rfl
    rw [exec_performerEnable, s.consoleCommand_setCtx i _ 0x11 tag [byte i.val] _ h (by simp)
      ((State.carryOut_performerEnable _ tag _).trans (State.performerEnable_slot _ i))]
    rfl

end Sys2Proof.Machine
end

section
/-! PROOFS. What a table lookup finds: the resolution of a pattern (R27 to R29), the pitch of a new note (R30) and the zone of a
pitch (R65). -/

namespace Sys2Proof.Machine

/-! ### Resolution (R27, R28) -/

theorem MapEntry.hits_iff (e : MapEntry) (keys : KeySet) : e.hits keys = true ↔ keys &&& e.care = e.keys := beq_iff_eq

theorem FingerMap.resolve_unmatched {m : FingerMap} {keys : KeySet} (octave transpose : Int)
    (h : ∀ e ∈ m.entries, keys &&& e.care ≠ e.keys) : m.resolve keys octave transpose = none := by
  have hfind : m.entries.find? (·.hits keys) = none :=
    List.find?_eq_none.2 fun e he hit => h e he ((e.hits_iff keys).1 hit)
  simp only [FingerMap.resolve, hfind]

/-- The first entry that matches decides, whatever its sum: the search does not go on to the entries after it. -/
theorem FingerMap.resolve_firstMatch {m : FingerMap} {keys : KeySet} {before after : List MapEntry} {e : MapEntry}
    (octave transpose : Int) (hm : m.entries = before ++ e :: after)
    (hbefore : ∀ x ∈ before, keys &&& x.care ≠ x.keys) (he : keys &&& e.care = e.keys) :
    m.resolve keys octave transpose =
      if 0 ≤ pitchSum m.baseNote e octave transpose ∧ pitchSum m.baseNote e octave transpose ≤ 127 then
        some (pitchSum m.baseNote e octave transpose).toNat
      else none := by
  have hmiss : ∀ x ∈ before, (!x.hits keys) = true := fun x hx => by
    simpa [← MapEntry.hits_iff] using hbefore x hx
  have hfind : m.entries.find? (·.hits keys) = some e :=
    List.find?_eq_some_iff_append.2 ⟨(e.hits_iff keys).2 he, before, after, hm, hmiss⟩
  simp only [FingerMap.resolve, hfind]

theorem pitchSum_bounds {base : Nat} {e : MapEntry} {octave transpose : Int} (hbase : base ≤ 127) (hlow : -48 ≤ e.offset)
    (hhigh : e.offset ≤ 48) (hdown : -3 ≤ octave) (hup : octave ≤ 3) (hflat : -24 ≤ transpose) (hsharp : transpose ≤ 24) :
    -108 ≤ pitchSum base e octave transpose ∧ pitchSum base e octave transpose ≤ 235 := by
  unfold pitchSum
  split <;> omega

/-! ### The pitch of a new note (R29, R30) -/

theorem State.activeMap_of_bound {s : State} {i : Slot} {b : BlockId} (h : (s.ctx i).bindings.map.active = some b) :
    s.activeMap i = (s.block b).fingerMap := by
  simp only [State.activeMap, State.activeBlock, Bindings.get, h, Option.map_some, Option.bind_some]

theorem State.resolve_of_activeMap {s : State} {i : Slot} {m : FingerMap} (h : s.activeMap i = some m) (g : Gesture) :
    s.resolve i g = m.resolve g.keys g.octave (s.ctx i).settings.transpose := by
  simp only [State.resolve, h, Option.bind_some]

theorem State.choosePitch_resolved {s : State} {i : Slot} {g : Gesture} {p : Nat} (h : s.resolve i g = some p) :
    s.choosePitch i g = p := by
  simp only [State.choosePitch, h]

theorem State.choosePitch_committed {s : State} {i : Slot} {g : Gesture} {p : Nat} (h : s.resolve i g = none)
    (hc : (s.ctx i).committedPitch = some p) : s.choosePitch i g = p := by
  simp only [State.choosePitch, h, hc]

theorem clamp_eq_max_min (top : Nat) (n : Int) : (clamp top n : Int) = max 0 (min (top : Int) n) := by
  unfold clamp
  omega

theorem State.choosePitch_default {s : State} {i : Slot} {g : Gesture} {m : FingerMap} (hm : s.activeMap i = some m)
    (h : s.resolve i g = none) (hc : (s.ctx i).committedPitch = none) :
    (s.choosePitch i g : Int) = max 0 (min 127 (m.defaultNote + (s.ctx i).settings.transpose)) := by
  simp only [State.choosePitch, h, hc, State.defaultNote, hm]
  exact clamp_eq_max_min 127 _

/-! ### The zone of a pitch (R65) -/

theorem Zone.covers_iff (z : Zone) (pitch : Nat) : z.covers pitch = true ↔ z.low ≤ pitch ∧ pitch ≤ z.high := by
  simp [Zone.covers]

theorem findZone_uncovered {pitch : Nat} {zones : List Zone} (h : ∀ z ∈ zones, ¬ (z.low ≤ pitch ∧ pitch ≤ z.high)) (n : Nat) :
    findZone pitch n zones = none := by
  induction zones generalizing n with
  | nil => rfl
  | cons z zs ih =>
    obtain ⟨hz, hzs⟩ := List.forall_mem_cons.1 h
    rw [findZone, if_neg (mt (z.covers_iff pitch).1 hz), ih hzs]

/-- The first zone that covers a pitch is the pitch's zone, its index counted from the number of the first zone. -/
theorem findZone_firstCover {pitch : Nat} {before : List Zone} {z : Zone} (after : List Zone)
    (hbefore : ∀ x ∈ before, ¬ (x.low ≤ pitch ∧ pitch ≤ x.high)) (hz : z.low ≤ pitch ∧ pitch ≤ z.high) (n : Nat) :
    findZone pitch n (before ++ z :: after) = some (before.length + n, z) := by
  induction before generalizing n with
  | nil => rw [List.nil_append, findZone, if_pos ((z.covers_iff pitch).2 hz), List.length_nil, Nat.zero_add]
  | cons x xs ih =>
    obtain ⟨hx, hxs⟩ := List.forall_mem_cons.1 hbefore
    rw [List.cons_append, findZone, if_neg (mt (x.covers_iff pitch).1 hx), ih hxs, List.length_cons, Nat.add_assoc,
      Nat.add_comm 1 n]

/-- Settles O28: by the first match of a map, the choice of a new note's pitch, and the first zone that covers a pitch. -/
theorem firstMatchDecides : Obligations.FirstMatchDecides := by
  unfold Obligations.FirstMatchDecides
  refine ⟨fun m keys octave transpose => ⟨FingerMap.resolve_unmatched octave transpose, ?_⟩, fun s i => ⟨?_, ?_, ?_⟩⟩
  · intro before after e hm hbefore he sum
    have hsum : pitchSum m.baseNote e octave transpose = sum := by
      simp only [sum, pitchSum, Int.mul_comm]
    have hresolve := FingerMap.resolve_firstMatch octave transpose hm hbefore he
    rw [hsum] at hresolve
    refine ⟨fun hlow hhigh => ?_, fun hout => ?_, ?_⟩
    · rw [hresolve, if_pos ⟨hlow, hhigh⟩]
    · rw [hresolve, if_neg (by omega)]
    · rw [← hsum]
      exact pitchSum_bounds
  · exact fun _ => State.activeMap_of_bound
  · exact fun m g hm => ⟨State.resolve_of_activeMap hm g, fun _ => State.choosePitch_resolved,
      fun _ => State.choosePitch_committed, State.choosePitch_default hm⟩
  · intro pitch
    refine ⟨fun h => findZone_uncovered h 1, fun before after z hplan hbefore hlow hhigh => ?_⟩
    rw [State.zoneFor, hplan, findZone_firstCover after hbefore ⟨hlow, hhigh⟩ 1]

end Sys2Proof.Machine
end

section
/-! PROOFS. Interpolation on a list of points (R45), what a Breath Curve looks up with it (R54, R57 to R59) and the values a voice
sends (R73). -/

namespace Sys2Proof.Machine

/-! ### The increment between two points (R45) -/

/-- A product with a share from 0 to the whole, divided by the whole toward zero, lies between 0 and the other factor. -/
theorem tdiv_share_between {share whole b : Int} (h0 : 0 ≤ share) (hle : share ≤ whole) (hpos : 0 < whole) :
    min 0 b ≤ (share * b).tdiv whole ∧ (share * b).tdiv whole ≤ max 0 b := by
  have magnitude {m : Int} (hm : 0 ≤ m) : 0 ≤ (share * m).tdiv whole ∧ (share * m).tdiv whole ≤ m := by
    rw [Int.tdiv_eq_ediv_of_nonneg (Int.mul_nonneg h0 hm)]
    refine ⟨Int.ediv_nonneg (Int.mul_nonneg h0 hm) hpos.le, ?_⟩
    calc share * m / whole ≤ whole * m / whole := Int.ediv_le_ediv hpos (Int.mul_le_mul_of_nonneg_right hle hm)
      _ = m := Int.mul_ediv_cancel_left m hpos.ne'
  obtain hb | hb := le_total 0 b
  · have := magnitude hb
    omega
  · have := magnitude (Int.neg_nonneg.2 hb)
    rw [Int.mul_neg, Int.neg_tdiv] at this
    omega

/-- The value on the line from one point to the next, the increment rounded toward zero (R45). -/
def lineThrough (p q : Nat × Nat) (x : Nat) : Int :=
  p.2 + (((x : Int) - p.1) * ((q.2 : Int) - p.2)).tdiv ((q.1 : Int) - p.1)

theorem lineThrough_start (p q : Nat × Nat) : lineThrough p q p.1 = p.2 := by simp [lineThrough]

theorem lineThrough_between {p q : Nat × Nat} {x : Nat} (hp : p.1 ≤ x) (hq : x < q.1) :
    ((min p.2 q.2 : Nat) : Int) ≤ lineThrough p q x ∧ lineThrough p q x ≤ (max p.2 q.2 : Nat) := by
  have hshare := tdiv_share_between (share := (x : Int) - p.1) (whole := (q.1 : Int) - p.1) (b := (q.2 : Int) - p.2)
    (by omega) (by omega) (by omega)
  unfold lineThrough
  omega

/-! ### The points of a list (R45) -/

theorem interpolate_atOrBelow_head {points : List (Nat × Nat)} {p : Nat × Nat} {x : Nat} (hp : points.head? = some p)
    (hx : x ≤ p.1) : interpolate points x = p.2 := by
  match points, hp with
  | [_], rfl => rfl
  | _ :: _ :: _, rfl => rw [interpolate, if_pos hx]

/-- Between the first two points the value is on the line through them, at the first point too. -/
theorem interpolate_head {p q : Nat × Nat} (after : List (Nat × Nat)) {x : Nat} (hp : p.1 ≤ x) (hq : x < q.1) :
    (interpolate (p :: q :: after) x : Int) = lineThrough p q x := by
  obtain rfl | hlt := hp.eq_or_lt
  · rw [interpolate_atOrBelow_head rfl le_rfl, lineThrough_start]
  · have hnonneg : 0 ≤ lineThrough p q x := (Int.natCast_nonneg _).trans (lineThrough_between hp hq).1
    rw [interpolate, if_neg (Nat.not_le.2 hlt), if_pos hq]
    exact Int.toNat_of_nonneg hnonneg

theorem interpolate_skip {p q : Nat × Nat} (after : List (Nat × Nat)) {x : Nat} (hp : p.1 < x) (hq : q.1 ≤ x) :
    interpolate (p :: q :: after) x = interpolate (q :: after) x := by
  rw [interpolate, if_neg (Nat.not_le.2 hp), if_neg (Nat.not_lt.2 hq)]

/-- The points before one that lies at or below the input do not matter. -/
theorem interpolate_append {before after : List (Nat × Nat)} {p : Nat × Nat} {x : Nat}
    (hsorted : (before ++ p :: after).Pairwise fun p q => p.1 < q.1) (hx : p.1 ≤ x) :
    interpolate (before ++ p :: after) x = interpolate (p :: after) x := by
  induction before with
  | nil => rfl
  | cons y ys ih =>
    obtain ⟨hy, hys⟩ := List.pairwise_cons.1 hsorted
    have hyx : y.1 < x := (hy p (by simp)).trans_le hx
    rw [← ih hys]
    cases ys with
    | nil => exact interpolate_skip after hyx hx
    | cons z zs =>
      have hzp : z.1 < p.1 := (List.pairwise_cons.1 hys).1 p (by simp)
      exact interpolate_skip _ hyx (hzp.le.trans hx)

theorem interpolate_atOrAbove_last {points : List (Nat × Nat)} {p : Nat × Nat} {x : Nat}
    (hsorted : points.Pairwise fun p q => p.1 < q.1) (hp : points.getLast? = some p) (hx : p.1 ≤ x) :
    interpolate points x = p.2 := by
  obtain ⟨before, rfl⟩ := List.getLast?_eq_some_iff.1 hp
  exact interpolate_append hsorted hx

theorem interpolate_between {before after : List (Nat × Nat)} {p q : Nat × Nat} {x : Nat}
    (hsorted : (before ++ p :: q :: after).Pairwise fun p q => p.1 < q.1) (hp : p.1 ≤ x) (hq : x < q.1) :
    (interpolate (before ++ p :: q :: after) x : Int) = lineThrough p q x := by
  rw [interpolate_append hsorted hp, interpolate_head after hp hq]

/-! ### The values a voice sends (R57, R58, R73) -/

theorem voicePitch_eq (glide : GlideCounter) (copy : Layer) (lipBend : Int) :
    (voicePitch glide copy lipBend : Int) =
      max 0 (min 12700 ((if copy.legato = .glide then glide.current else glide.target : Nat) + 100 * copy.transpose +
        lipBend)) := by
  rw [Int.mul_comm]
  unfold voicePitch
  cases copy.legato with
  | glide | restrike => exact clamp_eq_max_min 12700 _

theorem State.voiceValues_owned {s : State} {v : VoiceId} {i : Slot} {copy : Layer} {c : Curve} {g : Gesture}
    (ho : (s.voice v).owner = some i) (hcopy : (s.voice v).copy = some copy) (hc : s.activeCurve i = some c)
    (hg : (s.ctx i).lastFrame = some g) :
    s.voiceValues v =
      ⟨voicePitch (s.ctx i).glide copy (c.lipBend g), voiceLevel (c.noteLevel g) copy.levelScale, c.timbre g⟩ := by
  simp only [State.voiceValues, ho, hcopy, hc, hg]

/-- Settles O29: the points before the input do not matter, and between two points the increment is a share of their
difference. -/
theorem interpolationFollowsPoints : Obligations.InterpolationFollowsPoints := by
  unfold Obligations.InterpolationFollowsPoints
  refine ⟨fun points x hsorted => ⟨fun _ => interpolate_atOrBelow_head, fun _ => interpolate_atOrAbove_last hsorted, ?_⟩,
    fun c g attackTime => ⟨rfl, rfl, rfl, rfl⟩, fun s v i copy c g ho hcopy hc hg => ?_⟩
  · rintro before after p q rfl hp hq
    have hline := interpolate_between hsorted hp hq
    have hbetween := lineThrough_between hp hq
    exact ⟨hline, by omega, by omega⟩
  · rw [s.voiceValues_owned ho hcopy hc hg]
    refine ⟨(voicePitch_eq _ _ _).trans ?_, rfl, rfl⟩
    split <;> rfl

end Sys2Proof.Machine
end

section
/-! PROOFS. The start of a note by an expiry: the attack expiry (R51) and the guard expiry, which judges a deferred onset
(R52, R61). -/

namespace Sys2Proof.Machine

/-! ### The rows as events -/

theorem exec_attackExpiry (s : State) (i : Slot) (h : s.power = .running) :
    exec (.attackExpiry i) s = .next (s.attackExpiry i) :=
  congrArg Host.Outcome.next (s.whenRunning_running _ h)

theorem exec_guardExpiry (s : State) (i : Slot) (h : s.power = .running) :
    exec (.guardExpiry i) s = .next (s.guardExpiry i) :=
  congrArg Host.Outcome.next (s.whenRunning_running _ h)

/-! ### A note start begins the note of the gesture (R30, R54, R66) -/

/-- The performer's own context may change wherever allocation requests do not read it. -/
theorem State.poolAgrees.setCtx_left {s t : State} {i : Slot} (h : s.poolAgrees t i) {c : Context}
    (hs : c.settings = (s.ctx i).settings) (hn : c.note = (s.ctx i).note) : (s.setCtx i c).poolAgrees t i := by
  obtain ⟨hsettings, hnote⟩ := h.settings i
  have hboth := h.setCtx i c (t.ctx i) (absurd rfl) (hs.trans hsettings) (hn.trans hnote)
  rwa [State.setCtx_same] at hboth

/-- A note of a pitch has been put at a performer and its layers requested with a velocity (R66): what `State.noteBegun` compares
with. -/
def State.noteRequested (s : State) (i : Slot) (pitch velocity : Nat) : State :=
  (s.setCtx i { s.ctx i with note := some ⟨pitch, (s.zoneFor i pitch).map (·.1), velocity, []⟩ }).layersAllocated i velocity
    (layersOf (s.zoneFor i pitch))

theorem State.poolAgrees.plannerStart {s t : State} {i : Slot} (h : s.poolAgrees t i) {pitch : Nat}
    (hzone : s.zoneFor i pitch = t.zoneFor i pitch) (velocity : Nat) :
    (s.plannerStart i pitch velocity).poolAgrees (t.noteRequested i pitch velocity) i := by
  rw [State.noteRequested, State.layersAllocated_eq, State.plannerStart, hzone]
  refine State.poolAgrees.allocateLayers _ (h.setCtx i _ _ (absurd rfl) ?_ ?_) velocity 1
  · exact (h.settings i).1
  · rfl

/-- A note start requests the layers of the note that the gesture chooses, from any state that agrees on what it reads. -/
theorem State.poolAgrees.noteStart {s u : State} {i : Slot} {curve : Curve} (hpool : u.poolAgrees s i) (attackTime : Nat)
    (g : Gesture) (hc : s.activeCurve i = some curve) (hblocks : u.blocks = s.blocks)
    (hbindings : (u.ctx i).bindings = (s.ctx i).bindings)
    (hpitch : (u.ctx i).committedPitch = (s.ctx i).committedPitch) :
    (u.noteStart i attackTime g).poolAgrees
      (s.noteRequested i (s.choosePitch i g) (curve.velocity attackTime)) i := by
  have hcurve : u.activeCurve i = some curve := (State.activeCurve_congr hbindings hblocks).trans hc
  have hchoice : u.choosePitch i g = s.choosePitch i g :=
    State.choosePitch_congr hbindings hblocks (hpool.settings i).1 hpitch g
  simp only [State.noteStart, hcurve, hchoice]
  refine (State.poolAgrees.plannerStart (hpool.setCtx_left ?_ ?_) (State.zoneFor_congr ?_ ?_ _) _).setCtx_left ?_ ?_
  case refine_3 => simpa using hbindings
  case refine_4 => exact hblocks
  all_goals rfl

/-- The note has begun when the requests of its layers have been answered and the performer's own context is that of a
SOUNDING note on the gesture. -/
theorem State.noteBegun_of_poolAgrees {s t : State} {i : Slot} {g : Gesture} {curve : Curve} {attackTime : Nat}
    (hpool : t.poolAgrees (s.noteRequested i (s.choosePitch i g) (curve.velocity attackTime)) i)
    (hattack : (t.ctx i).timers.attack = none) (hglide : (t.ctx i).timers.glideStep = none)
    (hctx : t.ctx i = { s.ctx i with
      state := .sounding
      onset := none
      lastFrame := some g
      committedPitch := some (s.choosePitch i g)
      note := (t.ctx i).note
      glide := .at (s.choosePitch i g)
      deferredOnset := (t.ctx i).deferredOnset
      timers := (t.ctx i).timers }) :
    s.noteBegun t i g curve attackTime := by
  obtain ⟨hvoices, -, hothers, -, hnote, -, hnotices, hdropped⟩ := hpool
  rw [hnote, GlideCounter.at, Nat.mul_comm] at hctx
  exact ⟨hvoices, hothers, hnotices, hdropped, hattack, hglide, hctx⟩

/-- A note start at a performer whose last frame is the gesture begins the note, whatever the state, the onset record, the
deferred onset and the timers were. -/
theorem State.noteStart_noteBegun {s : State} {i : Slot} {g : Gesture} {curve : Curve} (attackTime : Nat)
    (state : PerformerState) (onset : Option OnsetRecord) (deferred : Bool) (timers : Timers)
    (hg : (s.ctx i).lastFrame = some g) (hc : s.activeCurve i = some curve) :
    let u := s.setCtx i
      { s.ctx i with state := state, onset := onset, deferredOnset := deferred, timers := timers }
    let t := u.noteStart i attackTime g
    s.noteBegun t i g curve attackTime ∧ (t.ctx i).deferredOnset = deferred ∧
      (t.ctx i).timers = { timers with attack := none, glideStep := none } ∧ s.onlySection t := by
  intro u t
  have hu : u.ctx i = { s.ctx i with state := state, onset := onset, deferredOnset := deferred, timers := timers } :=
    State.ctx_setCtx_same s i _
  have hbindings : (u.ctx i).bindings = (s.ctx i).bindings := by rw [hu]
  have hpitch : (u.ctx i).committedPitch = (s.ctx i).committedPitch := by rw [hu]
  have hstart : u.poolAgrees s i := (State.poolAgrees.refl s i).setCtx_left rfl rfl
  have hchoice : u.choosePitch i g = s.choosePitch i g :=
    State.choosePitch_congr hbindings rfl (hstart.settings i).1 hpitch g
  obtain ⟨hsection, voices, -, hctx⟩ :=
    u.noteStart_spec i attackTime g curve ((State.activeCurve_congr hbindings rfl).trans hc)
  rw [hchoice, hu] at hctx
  have hctx : t.ctx i = _ := hctx
  have hnote : s.noteBegun t i g curve attackTime :=
    State.noteBegun_of_poolAgrees (hstart.noteStart attackTime g hc rfl hbindings hpitch) (by rw [hctx]) (by rw [hctx])
      (by rw [hctx, ← hg])
  exact ⟨hnote, by rw [hctx], by rw [hctx], (State.onlySection_setCtx s i _).trans hsection⟩

/-! ### The attack expiry (R51) -/

theorem State.attackExpiry_onset {s : State} {i : Slot} {g : Gesture} {run : Run} (hs : (s.ctx i).state = .onset)
    (ht : (s.ctx i).timers.attack = some run) (hg : (s.ctx i).lastFrame = some g) :
    s.attackExpiry i = (s.setCtx i
      { s.ctx i with onset := none, timers := { (s.ctx i).timers with attack := none } }).noteStart i run.length g := by
  simp only [State.attackExpiry, ht, hs, hg, State.updCtx_eq, Context.withTimers, State.ctx_setCtx_same,
    State.setCtx_setCtx]

/-- Settles O22: the expiry is a note start with the length of the timer as the attack time. -/
theorem attackExpiryStartsNote : Obligations.AttackExpiryStartsNote := by
  unfold Obligations.AttackExpiryStartsNote
  intro s i g curve run hrun hs ht hg hc
  obtain ⟨hnote, hdeferred, htimers, hsection⟩ := State.noteStart_noteBegun run.length (s.ctx i).state none
    (s.ctx i).deferredOnset { (s.ctx i).timers with attack := none } hg hc
  exact ⟨_, (exec_attackExpiry s i hrun).trans (congrArg Host.Outcome.next (State.attackExpiry_onset hs ht hg)), hnote,
    htimers, hdeferred, hsection⟩

/-! ### The guard expiry (R52) -/

/-- The beginning of an attack with a window (R47). -/
theorem State.beginOnset_window {s : State} {i : Slot} (g : Gesture) (h : (s.ctx i).settings.attackWindow ≠ 0) :
    s.beginOnset i g = s.setCtx i
      { s.ctx i with
        state := .onset
        onset := some ⟨s.timebase, g.breath⟩
        timers := { (s.ctx i).timers with
          phrase := none
          attack := Timer.start (s.ctx i).settings.attackWindow } } := by
  simp only [State.beginOnset, h, if_false, State.updCtx_eq, Context.withTimers, State.ctx_setCtx_same,
    State.setCtx_setCtx, State.setCtx_timebase]

/-- The beginning of an attack without a window is the note itself (R47). -/
theorem State.beginOnset_prompt {s : State} {i : Slot} (g : Gesture) (h : (s.ctx i).settings.attackWindow = 0) :
    s.beginOnset i g =
      (s.setCtx i { s.ctx i with timers := { (s.ctx i).timers with phrase := none } }).noteStart i 0 g := by
  simp only [State.beginOnset, h, if_true, State.updCtx_eq, Context.withTimers]

theorem State.deferredHolds_iff (s : State) (i : Slot) (g : Gesture) :
    s.deferredHolds i g = true ↔ ∃ curve, s.activeCurve i = some curve ∧ (s.ctx i).deferredOnset = true ∧
      (s.ctx i).bindings.allActive = true ∧ s.quiesce.phase = .idle ∧ curve.onsetThreshold ≤ g.breath := by
  unfold State.deferredHolds
  cases s.activeCurve i with
  | none => simp
  | some curve => simp [and_assoc]

/-- A context after its guard has expired: the guard is stopped and deferred onset is no (R52). -/
def Context.unguarded (c : Context) : Context :=
  { c with deferredOnset := false, timers := { c.timers with guard := none } }

/-- The guard expiry in READY (R52). -/
theorem State.guardExpiry_ready {s : State} {i : Slot} {g : Gesture} (hs : (s.ctx i).state = .ready)
    (ht : (s.ctx i).timers.guard ≠ none) (hg : (s.ctx i).lastFrame = some g) :
    s.guardExpiry i =
      if s.deferredHolds i g then (s.setCtx i (s.ctx i).unguarded).beginOnset i g
      else s.setCtx i (s.ctx i).unguarded := by
  have hrunning : (s.ctx i).timers.guard.running = true := Option.isSome_iff_ne_none.2 ht
  simp only [State.guardExpiry, hrunning, if_true, hs, hg, State.updCtx_eq, Context.unguarded]

/-- Settles O23: the expiry begins an attack when the deferred onset holds, and by the window that attack is ONSET or the note. -/
theorem guardExpiryJudgesDeferredOnset : Obligations.GuardExpiryJudgesDeferredOnset := by
  unfold Obligations.GuardExpiryJudgesDeferredOnset
  intro s i g hrun hs ht hg judged
  have hexec := (exec_guardExpiry s i hrun).trans (congrArg Host.Outcome.next (State.guardExpiry_ready hs ht hg))
  have hunguarded : (s.setCtx i (s.ctx i).unguarded).ctx i = (s.ctx i).unguarded := State.ctx_setCtx_same s i _
  have hbegins {curve : Curve} (hj : judged curve) :
      exec (.guardExpiry i) s = .next ((s.setCtx i (s.ctx i).unguarded).beginOnset i g) := by
    rw [hexec, if_pos ((s.deferredHolds_iff i g).2 ⟨curve, hj⟩)]
  refine ⟨fun curve hj hwindow => ?_, fun curve hj hwindow => ?_, fun hnone => ?_⟩
  · rw [hbegins hj, State.beginOnset_window g (by rw [hunguarded]; exact hwindow), hunguarded, State.setCtx_setCtx]
    rfl
  · obtain ⟨hnote, hdeferred, htimers, hsection⟩ := State.noteStart_noteBegun 0 (s.ctx i).state (s.ctx i).onset false
      { (s.ctx i).timers with guard := none, phrase := none } hg hj.1
    refine ⟨_, ?_, hnote, hdeferred, htimers, hsection⟩
    rw [hbegins hj, State.beginOnset_prompt g (by rw [hunguarded]; exact hwindow), hunguarded, State.setCtx_setCtx]
    rfl
  · rw [hexec, if_neg (mt (s.deferredHolds_iff i g).1 fun ⟨curve, hj⟩ => hnone curve hj)]
    rfl

end Sys2Proof.Machine
end

section
/-! PROOFS. A GESTURE frame as it comes over the link (R155, R156, R162), and the release of a note by one (R37, R55, R56). -/

namespace Sys2Proof.Machine

/-! ### The bytes of a GESTURE frame (R155, R161, R162) -/

/-- A body closed by its check value sums to a multiple of 256 (R155). -/
theorem checkHolds_closed (body : List Byte) : checkHolds (closed body) = true := by
  simp [checkHolds, closed, checkValue]

theorem keys_of_be24 (x : BitVec 24) : x.extractLsb' 16 8 ++ x.extractLsb' 8 8 ++ x.extractLsb' 0 8 = x := by
  rw [BitVec.extractLsb'_append_extractLsb'_eq_extractLsb' (by decide),
    BitVec.extractLsb'_append_extractLsb'_eq_extractLsb' (by decide)]
  exact BitVec.extractLsb'_eq_self

theorem toInt_signedByte {n : Int} (hlow : -128 ≤ n) (hhigh : n ≤ 127) : (signedByte n).toInt = n := by
  rw [signedByte, BitVec.toInt_ofInt]
  exact Int.bmod_eq_of_le (by omega) (by omega)

theorem toNat_byte {n : Nat} (h : n ≤ 255) : (byte n).toNat = n := Nat.mod_eq_of_lt (Nat.lt_succ_of_le h)

/-- Two bytes, high byte first, hold a number below 65536 (R161). -/
theorem toNat_be16 {n : Nat} (h : n ≤ 65535) : 256 * (byte (n / 256)).toNat + (byte n).toNat = n := by
  have hlow : (byte n).toNat = n % 256 := rfl
  rw [toNat_byte (by omega), hlow]
  omega

theorem gestureOf_gestureFrame (i : Slot) {g : Gesture} (h : g.inRange) : gestureOf (gestureFrame i g) = g := by
  obtain ⟨hoctaveLow, hoctaveHigh, hbreath, hbite, hlip⟩ := h
  have hkeys : keysAt (gestureFrame i g) 1 = g.keys := keys_of_be24 g.keys
  have hoctave : s8At (gestureFrame i g) 4 = g.octave := toInt_signedByte (by omega) (by omega)
  have hbreath : u16At (gestureFrame i g) 5 = g.breath := toNat_be16 (by omega)
  have hbite : u8At (gestureFrame i g) 7 = g.bite := toNat_byte hbite
  have hlip : u8At (gestureFrame i g) 8 = g.lip := toNat_byte hlip
  simp only [gestureOf, hkeys, hoctave, hbreath, hbite, hlip]

theorem kindByte_gesture (i : Slot) : kindOf (kindByte 1 i.val) = 1 ∧ addressOf (kindByte 1 i.val) = i.val := by
  revert i
  decide

theorem judgeGestureLink_gesture {first : Byte} {rest : List Byte} (hcheck : checkHolds (first :: rest) = true)
    (hkind : kindOf first = 1) : judgeGestureLink (first :: rest) = judgeGesture first (first :: rest) := by
  simp only [judgeGestureLink, hcheck, hkind, Bool.not_true, Bool.false_eq_true, if_false, if_true]

/-- A GESTURE frame with a content in range is judged to carry it (R156). -/
theorem judgeGestureLink_gestureFrame (i : Slot) {g : Gesture} (h : g.inRange) :
    judgeGestureLink (gestureFrame i g) = some (.gesture i g) := by
  obtain ⟨hkind, haddress⟩ := kindByte_gesture i
  have hslot : addressOf (kindByte 1 i.val) < 8 := haddress.trans_lt i.isLt
  have hjudged : judgeGesture (kindByte 1 i.val) (gestureFrame i g) = some (.gesture i g) := by
    obtain ⟨hlow, hhigh, hbreath, -⟩ := id h
    rw [judgeGesture, dif_pos hslot, gestureOf_gestureFrame i h, if_pos ⟨rfl, hlow, hhigh, hbreath⟩]
    simp only [haddress]
  have hcheck : checkHolds (gestureFrame i g) = true := checkHolds_closed _
  exact (judgeGestureLink_gesture hcheck hkind).trans hjudged

/-- A GESTURE frame that the part hears is taken at the context of its slot (R7, R156, R157). -/
theorem exec_gestureCommand {s : State} (i : Slot) {g : Gesture} (hs : s.hearsGestures) (h : g.inRange) :
    exec (gestureCommand i g) s = .next ((s.heard .gesture).gestureAt i g) := by
  obtain ⟨hquiet, hidle⟩ := hs
  have hframe : kindByte 1 (BitVec.ofNat 4 i.val).toNat :: (gestureFrame i g).tail = gestureFrame i g := by
    rw [BitVec.toNat_ofNat, Nat.mod_eq_of_lt (by omega)]
    rfl
  have hroute : (s.heard .gesture).routeGestureLink (.gesture i g) = (s.heard .gesture).gestureAt i g := by
    have hphase : (s.heard .gesture).quiesce.phase = .idle := hidle
    simp only [State.routeGestureLink, hphase]
  have hlength : (gestureFrame i g).length = 10 := rfl
  have hreceive : s.receive .gesture (gestureFrame i g) = (s.heard .gesture).gestureAt i g := by
    rw [s.receive_quiet .gesture _ (hquiet.collected _) (by omega), ← hroute]
    simp only [State.judgeFrame, judgeGestureLink_gestureFrame i h]
  calc exec (gestureCommand i g) s
      = .next (s.whenRunning (s.receive .gesture
          (kindByte 1 (BitVec.ofNat 4 i.val).toNat :: (gestureFrame i g).tail))) := rfl
    _ = .next ((s.heard .gesture).gestureAt i g) := by rw [s.whenRunning_running _ hquiet.1, hframe, hreceive]

/-! ### The release of a note (R37, R55, R56) -/

/-- A context whose note has been released. -/
def Context.released (c : Context) : Context :=
  { c with
    state := .ready
    note := none
    candidate := false
    bindings := c.bindings.appliedAll .atRest
    timers := { c.timers with
      settle := none
      glideStep := none
      guard := Timer.startIfAny c.settings.guardTime
      phrase := Timer.start (64 * c.settings.phraseGap) } }

/-- A release ends the note, starts guard and phrase timer, and applies the staged AT REST bindings. -/
theorem State.release_eq (s : State) (i : Slot) :
    s.release i = ((s.endVoices i).setCtx i { (s.ctx i).released with bindings := (s.ctx i).bindings }).applyAll i .atRest := by
  simp only [State.release, State.enterReady, State.noteEnd, State.updCtx_eq, State.ctx_setCtx_same, State.setCtx_setCtx,
    State.endVoices_ctx, Context.startPhrase, Context.withTimers, Context.released]

theorem State.release_spec (s : State) (i : Slot) :
    let t := s.release i
    s.onlySection t ∧ t.mgmt = (s.applyAll i .atRest).mgmt ∧ s.voicesEnded t i ∧ s.otherContexts t i ∧
      t.ctx i = (s.ctx i).released := by
  intro t
  have ht : t = _ := s.release_eq i
  rw [ht]
  refine ⟨?_, ?_, fun v => ?_, fun j hj => ?_, ?_⟩
  · exact (s.onlySection_endVoices i).trans ((State.onlySection_setCtx _ _ _).trans (State.onlySection_applyAll _ _ _))
  · exact State.applyAll_mgmt_congr .atRest (by simp) (by simp [State.endVoices_eq])
  · rw [State.voice_of_voices (State.applyAll_voices _ _ _), State.endVoices_eq, State.voice_setCtx, State.voice_mapVoices]
  · rw [State.applyAll_ctx_ne _ _ _ _ hj, State.ctx_setCtx_ne _ _ _ _ hj, State.endVoices_ctx]
  · rw [State.applyAll_ctx, State.ctx_setCtx_same]
    rfl

/-- A frame below the release threshold in SOUNDING or SETTLING releases the note and is kept; with the note gone it is judged
for no pattern and for no expression (R7, R55). -/
theorem State.takeFrame_release {s : State} {i : Slot} {g : Gesture} {curve : Curve}
    (hs : (s.ctx i).state = .sounding ∨ (s.ctx i).state = .settling) (hc : s.activeCurve i = some curve)
    (hg : g.breath < curve.releaseThreshold) :
    s.takeFrame i g = (s.release i).setCtx i { (s.ctx i).released with lastFrame := some g } := by
  obtain ⟨-, -, -, -, hctx⟩ := s.release_spec i
  have hjudge : s.judgeBreath i g = s.release i := by
    obtain hs | hs := hs <;> simp only [State.judgeBreath, hc, hs, hg, if_true]
  simp only [State.takeFrame, hjudge, hctx, Context.released, PerformerState.inNote, Option.isSome_none, Bool.and_false,
    Bool.false_eq_true, if_false, State.updCtx_eq]

theorem State.gestureAt_inNote {s : State} {i : Slot} (g : Gesture) (he : (s.ctx i).enabled = true)
    (hs : (s.ctx i).state = .sounding ∨ (s.ctx i).state = .settling) :
    s.gestureAt i g = (s.setCtx i (s.ctx i).startSilence).takeFrame i g := by
  obtain hs | hs := hs <;> simp only [State.gestureAt, he, if_true, hs, State.updCtx_eq]

/-- A frame below the release threshold at a performer in SOUNDING or SETTLING: what the release leaves, the silence timer
started again and the frame kept (R7, R9, R55). -/
theorem State.gestureAt_release_spec {s : State} {i : Slot} {g : Gesture} {curve : Curve} (he : (s.ctx i).enabled = true)
    (hs : (s.ctx i).state = .sounding ∨ (s.ctx i).state = .settling) (hc : s.activeCurve i = some curve)
    (hg : g.breath < curve.releaseThreshold) :
    let t := s.gestureAt i g
    s.onlySection t ∧ t.mgmt = (s.applyAll i .atRest).mgmt ∧ s.voicesEnded t i ∧ s.otherContexts t i ∧
      t.ctx i = { (s.ctx i).startSilence.released with lastFrame := some g } := by
  intro t
  have hsilence : (s.setCtx i (s.ctx i).startSilence).ctx i = (s.ctx i).startSilence := State.ctx_setCtx_same s i _
  have hcurve : (s.setCtx i (s.ctx i).startSilence).activeCurve i = some curve :=
    (State.activeCurve_setCtx (c := (s.ctx i).startSilence) rfl).trans hc
  have htake := State.takeFrame_release (s := s.setCtx i (s.ctx i).startSilence) (by rw [hsilence]; exact hs) hcurve hg
  rw [hsilence] at htake
  have ht : t = _ := (State.gestureAt_inNote g he hs).trans htake
  obtain ⟨hsection, hmgmt, hvoices, hothers, -⟩ := (s.setCtx i (s.ctx i).startSilence).release_spec i
  rw [ht]
  refine ⟨?_, ?_, fun v => ?_, fun j hj => ?_, State.ctx_setCtx_same _ i _⟩
  · exact (State.onlySection_setCtx s i _).trans (hsection.trans (State.onlySection_setCtx _ i _))
  · rw [State.setCtx_mgmt, hmgmt]
    exact State.applyAll_mgmt_congr .atRest (by rw [hsilence]; rfl) (State.setCtx_mgmt s i _)
  · rw [State.voice_setCtx, hvoices v, hsilence]
    rfl
  · rw [State.ctx_setCtx_ne _ _ _ _ hj, hothers j hj, State.ctx_setCtx_ne _ _ _ _ hj]

/-- Settles O19: the frame is heard at its slot, and what it leaves there is what a release leaves. -/
theorem gestureReleasesNote : Obligations.GestureReleasesNote := by
  unfold Obligations.GestureReleasesNote
  intro s i g curve hhears hrange he hs hc hg
  obtain ⟨hsection, hmgmt, hvoices, hothers, hctx⟩ :=
    State.gestureAt_release_spec (s := s.heard .gesture) he hs hc hg
  exact ⟨_, exec_gestureCommand i hhears hrange, hvoices, hothers, hsection,
    hmgmt.trans (State.applyAll_mgmt_congr .atRest rfl rfl), hctx⟩

end Sys2Proof.Machine
end

section
/-! PROOFS. The glide of a note: a retarget of its counter (R71), a step of it (R72), and the PITCH flags both set on the
SOUNDING GLIDE voices (R67, R84). -/

namespace Sys2Proof.Machine

/-! ### PITCH on the GLIDE voices (R71, R72, R84) -/

/-- A set-flag request at a SOUNDING voice (R84). -/
theorem Voice.flagged_of_sounding {r : Voice} (x : UpdateFlag) (h : r.state = .sounding) :
    r.flagged x = { r with flags := r.flags.put x true } := by
  simp only [Voice.flagged, h]

/-- PITCH set on every present voice of a performer's note whose layer copy says GLIDE (R71, R72). -/
def State.flagGlideVoices (s : State) (i : Slot) : State := s.flagVoices i .pitch fun v => s.hasLegato v .glide

/-- A voice's record with PITCH set, if it is a SOUNDING GLIDE voice of a performer's note (R67, R84). -/
def State.pitchedIfGlide (s : State) (i : Slot) (v : VoiceId) : Voice :=
  if v ∈ (s.ctx i).noteVoices ∧ s.hasLegato v .glide = true ∧ (s.voice v).state = .sounding then
    { s.voice v with flags := { (s.voice v).flags with pitch := true } }
  else s.voice v

theorem State.flagGlideVoices_frame (s : State) (i : Slot) :
    s.flagGlideVoices i = { s with voices := (s.flagGlideVoices i).voices } := by
  rw [State.flagGlideVoices, State.flagVoices_eq]
  rfl

theorem State.voice_flagGlideVoices (s : State) (i : Slot) (v : VoiceId) :
    (s.flagGlideVoices i).voice v = s.pitchedIfGlide i v := by
  rw [State.flagGlideVoices, State.flagVoices_eq, State.voice_mapVoices, State.pitchedIfGlide]
  by_cases hsounding : (s.voice v).state = .sounding
  · simp only [hsounding, and_true, Voice.flagged_of_sounding .pitch hsounding, Flags.put]
  · simp only [hsounding, and_false, if_false, Voice.flagged_of_not_sounding _ .pitch hsounding, ite_self]

/-- What is written at a context beside its note leaves its note's voices (R3). -/
theorem Context.noteVoices_congr {c d : Context} (h : c.note = d.note) : c.noteVoices = d.noteVoices := by
  simp only [Context.noteVoices, h]

/-- The voices flagged after a write at the context that keeps the note are those of the note before it. -/
theorem State.voice_flagGlideVoices_setCtx (s : State) (i : Slot) {c : Context} (h : c.note = (s.ctx i).note) (v : VoiceId) :
    ((s.setCtx i c).flagGlideVoices i).voice v = s.pitchedIfGlide i v := by
  rw [State.voice_flagGlideVoices, State.pitchedIfGlide, State.ctx_setCtx_same, Context.noteVoices_congr h]
  rfl

/-! ### A step of the glide (R72) -/

theorem GlideCounter.direction_of_wf {g : GlideCounter} (h : g.wf = true) :
    (g.current < g.target → g.direction = .up) ∧ (g.target < g.current → g.direction = .down) := by
  simp only [GlideCounter.wf, Bool.and_eq_true, Bool.or_eq_true, Bool.not_eq_true', decide_eq_false_iff_not, beq_iff_eq] at h
  obtain ⟨⟨-, hup⟩, hdown⟩ := h
  exact ⟨hup.resolve_left ∘ not_not_intro, hdown.resolve_left ∘ not_not_intro⟩

/-- A step of a glide on its way ends at the step's end or at the target, whichever comes first. -/
theorem GlideCounter.advance_of_wf {g : GlideCounter} (h : g.wf = true) (hne : g.current ≠ g.target) :
    g.advance = { g with
      current := if g.current < g.target then min g.target (g.current + g.step) else max g.target (g.current - g.step) } := by
  obtain ⟨hup, hdown⟩ := GlideCounter.direction_of_wf h
  obtain hlt | hgt := Nat.lt_or_gt_of_ne hne
  · simp only [GlideCounter.advance, distance, hup hlt, hlt, if_true]
    split <;> congr 1 <;> omega
  · simp only [GlideCounter.advance, distance, hdown hgt, Nat.not_lt_of_gt hgt, if_false]
    split <;> congr 1 <;> omega

/-- A context whose glide has moved one step: the glide step timer runs on unless the target is reached (R72). -/
def Context.glideStepped (c : Context) : Context :=
  { c with
    glide := c.glide.advance
    timers := { c.timers with
      glideStep := if c.glide.advance.current = c.glide.advance.target then none else Timer.start 4 } }

theorem State.glideStep_onItsWay {s : State} {i : Slot} (htimer : (s.ctx i).timers.glideStep ≠ none)
    (hnote : (s.ctx i).note ≠ none) (hne : (s.ctx i).glide.current ≠ (s.ctx i).glide.target) :
    s.glideStep i = (s.setCtx i (s.ctx i).glideStepped).flagGlideVoices i := by
  have hrun : (s.ctx i).timers.glideStep.running = true := Option.isSome_iff_ne_none.2 htimer
  have hmoves : (s.ctx i).note.isSome = true ∧ (s.ctx i).glide.current ≠ (s.ctx i).glide.target :=
    ⟨Option.isSome_iff_ne_none.2 hnote, hne⟩
  rw [State.glideStep, if_pos hrun, if_pos hmoves]
  rfl

theorem exec_glideStepExpiry (s : State) (i : Slot) (h : s.power = .running) :
    exec (.glideStepExpiry i) s = .next (s.glideStep i) :=
  congrArg Host.Outcome.next (s.whenRunning_running _ h)

/-- Settles O26: the step goes the way of the direction, which a lawful counter has toward its target, and the flags are set
after a write that keeps the note. -/
theorem glideStepMovesTowardTarget : Obligations.GlideStepMovesTowardTarget := by
  unfold Obligations.GlideStepMovesTowardTarget
  intro s i hpower htimer hnote hwf hne
  have hstep := State.glideStep_onItsWay htimer hnote hne
  refine ⟨_, exec_glideStepExpiry s i hpower, ?_, fun v => ?_⟩
  · rw [hstep, State.flagGlideVoices_frame, Context.glideStepped, GlideCounter.advance_of_wf hwf hne]
  · rw [hstep]
    exact s.voice_flagGlideVoices_setCtx i (c := (s.ctx i).glideStepped) rfl v

/-! ### A retarget of the glide counter (R71) -/

theorem cast_distance (a b : Nat) : (distance a b : Int) = |(b : Int) - a| := by
  rw [distance, Int.abs_eq_natAbs]
  omega

/-- A division rounded up is the least number of parts that reaches the whole. -/
theorem divUp_mul_bounds (n : Nat) {d : Nat} (hd : 0 < d) :
    ((divUp n d : Int) - 1) * d < n ∧ (n : Int) ≤ divUp n d * d := by
  have hle : divUp n d * d ≤ n + (d - 1) := Nat.div_mul_le_self _ d
  have hlt : n + (d - 1) < divUp n d * d + d := Nat.lt_div_mul_add hd
  rw [sub_one_mul]
  omega

/-- Clause 2: at the target already, the counter keeps its step and direction and rests. -/
theorem GlideCounter.retarget_at {g : GlideCounter} {cents : Nat} (time : Nat) (t : Timer) (h : g.current = cents) :
    g.retarget cents time = { g with target := cents } ∧ glideTimerAfter g cents time t = none := by
  simp only [GlideCounter.retarget, glideTimerAfter, h, if_true, and_self]

/-- Clause 3: away from its target, the counter turns toward it. -/
theorem GlideCounter.retarget_direction {g : GlideCounter} {cents : Nat} (time : Nat) (h : g.current ≠ cents) :
    (g.retarget cents time).direction = if g.current < cents then .up else .down := by
  rw [GlideCounter.retarget, if_neg h]
  dsimp only
  split <;> rfl

/-- Clause 4: without a glide time the counter is at its target at once. -/
theorem GlideCounter.retarget_prompt {g : GlideCounter} {cents : Nat} (t : Timer) (h : g.current ≠ cents) :
    g.retarget cents 0 = ⟨cents, cents, distance g.current cents, if g.current < cents then .up else .down⟩ ∧
      glideTimerAfter g cents 0 t = none := by
  simp only [GlideCounter.retarget, glideTimerAfter, h, if_true, if_false, and_self]

/-- Clause 5: with a glide time the counter stays, and its timer runs. -/
theorem GlideCounter.retarget_timed {g : GlideCounter} {cents time : Nat} (t : Timer) (h : g.current ≠ cents) (ht : time ≠ 0) :
    g.retarget cents time =
        ⟨g.current, cents, divUp (distance g.current cents) time, if g.current < cents then .up else .down⟩ ∧
      glideTimerAfter g cents time t = if t = none then Timer.start 4 else t := by
  simp only [GlideCounter.retarget, glideTimerAfter, h, ht, if_false, true_and]
  cases t <;> rfl

/-- A context whose glide is retargeted (R71). -/
def Context.retargeted (c : Context) (cents time : Nat) : Context :=
  { c with
    glide := c.glide.retarget cents time
    timers := { c.timers with glideStep := glideTimerAfter c.glide cents time c.timers.glideStep } }

theorem State.retargetGlide_eq (s : State) (i : Slot) (cents time : Nat) :
    s.retargetGlide i cents time =
      if (s.ctx i).glide.current ≠ cents ∧ time = 0 then
        (s.setCtx i ((s.ctx i).retargeted cents time)).flagGlideVoices i
      else s.setCtx i ((s.ctx i).retargeted cents time) := rfl

/-- A retarget writes its context and voice records only. -/
theorem State.retargetGlide_frame (s : State) (i : Slot) (cents time : Nat) :
    s.retargetGlide i cents time =
      { s.setCtx i ((s.ctx i).retargeted cents time) with voices := (s.retargetGlide i cents time).voices } := by
  rw [State.retargetGlide_eq]
  split
  · exact State.flagGlideVoices_frame _ i
  · rfl

/-- No flag is set unless the current value jumps. -/
theorem State.retargetGlide_voices_of_still {s : State} {i : Slot} {cents time : Nat}
    (h : (s.ctx i).glide.current = cents ∨ time ≠ 0) : (s.retargetGlide i cents time).voices = s.voices := by
  rw [State.retargetGlide_eq, if_neg (by tauto)]
  rfl

/-- A jump of the current value sets PITCH on the GLIDE voices. -/
theorem State.voice_retargetGlide_of_jump {s : State} {i : Slot} {cents : Nat} (h : (s.ctx i).glide.current ≠ cents)
    (v : VoiceId) : (s.retargetGlide i cents 0).voice v = s.pitchedIfGlide i v := by
  rw [State.retargetGlide_eq, if_pos ⟨h, rfl⟩]
  exact s.voice_flagGlideVoices_setCtx i (c := (s.ctx i).retargeted cents 0) rfl v

/-- Settles O31: the counter and its timer by the clauses, and the flags exactly where the current value jumps. -/
theorem retargetFollowsRule : Obligations.RetargetFollowsRule := by
  unfold Obligations.RetargetFollowsRule
  intro s i cents time c t
  have hctx : t.ctx i = c.retargeted cents time := s.retargetGlide_ctx i cents time
  refine ⟨?_, ?_, fun heq => ?_, fun hne => ?_⟩
  · rw [hctx]
    exact s.retargetGlide_frame i cents time
  · rw [hctx]
    exact c.glide.retarget_target cents time
  · obtain ⟨hglide, htimer⟩ := GlideCounter.retarget_at time c.timers.glideStep heq
    rw [hctx]
    exact ⟨hglide, htimer, State.retargetGlide_voices_of_still (.inl heq)⟩
  · rw [hctx, ← cast_distance]
    refine ⟨GlideCounter.retarget_direction time hne, ?_, fun ht => ?_⟩
    · rintro rfl
      obtain ⟨hglide, htimer⟩ := GlideCounter.retarget_prompt c.timers.glideStep hne
      rw [Context.retargeted, hglide, htimer]
      exact ⟨rfl, rfl, rfl, State.voice_retargetGlide_of_jump hne⟩
    · obtain ⟨hglide, htimer⟩ := GlideCounter.retarget_timed c.timers.glideStep hne ht
      obtain ⟨hbelow, hreaches⟩ := divUp_mul_bounds (distance c.glide.current cents) (Nat.pos_of_ne_zero ht)
      rw [Context.retargeted, hglide, htimer]
      exact ⟨rfl, State.retargetGlide_voices_of_still (.inr ht), hbelow, hreaches, rfl⟩

end Sys2Proof.Machine
end

section
/-! PROOFS. The requests on a SOUNDING voice (R82, R83), and a TAIL DONE frame from the inbound Voice Link to its voice record
(R94, R158). -/

namespace Sys2Proof.Machine

/-! ### Requests on a SOUNDING voice (R82, R83) -/

/-- A pending command other than START becomes a RETAKE (R83, R87). -/
theorem restruck_of_not_start {pending : Option Discrete} (program velocity : Nat)
    (h : ∀ p q, pending ≠ some (.start p q)) : restruck pending program velocity = some (.retake program velocity) := by
  match pending with
  | some (.start p q) => exact absurd rfl (h p q)
  | some (.retake _ _) => rfl
  | some .ending => rfl
  | none => rfl

theorem Voice.retaken_of_sounding {r : Voice} (program velocity : Nat) (h : r.state = .sounding) :
    r.retaken program velocity = { r with pending := restruck r.pending program velocity } := by
  simp only [Voice.retaken, h]

/-- An end request frees a SOUNDING voice that was never started (R82). -/
theorem Voice.ended_of_start {r : Voice} {p q : Nat} (now : Stamp) (h : r.state = .sounding)
    (hstart : r.pending = some (.start p q)) : r.ended now = { r.letGo with state := .free, pending := none } := by
  simp only [Voice.ended, h, hstart]

/-- An end request leaves a SOUNDING voice that was started RELEASING, with its END owed (R82). -/
theorem Voice.ended_of_not_start {r : Voice} (now : Stamp) (h : r.state = .sounding)
    (hstart : ∀ p q, r.pending ≠ some (.start p q)) :
    r.ended now = { r.letGo with state := .releasing, pending := some .ending, releaseStamp := now } := by
  match hpending : r.pending with
  | some (.start p q) => exact absurd hpending (hstart p q)
  | some (.retake _ _) => simp only [Voice.ended, h, hpending]
  | some .ending => simp only [Voice.ended, h, hpending]
  | none => simp only [Voice.ended, h, hpending]

/-- Settles O33: the record each request writes, by whether a START is pending. -/
theorem retakeRequestKeepsStart : Obligations.RetakeRequestKeepsStart := by
  unfold Obligations.RetakeRequestKeepsStart
  intro s v program velocity hsounding
  have hretake : s.retakeVoice v program velocity = s.setVoice v ((s.voice v).retaken program velocity) := s.updVoice_eq v _
  have hend : s.endVoice v = s.setVoice v ((s.voice v).ended s.timebase) := s.updVoice_eq v _
  rw [hretake, hend, Voice.retaken_of_sounding program velocity hsounding]
  refine ⟨?_, fun hstart => ?_, rfl⟩
  · rintro ⟨p, q, hstart⟩
    rw [Voice.ended_of_start _ hsounding hstart, hstart]
    exact ⟨rfl, rfl⟩
  · rw [Voice.ended_of_not_start _ hsounding hstart, restruck_of_not_start program velocity hstart]
    exact ⟨rfl, rfl⟩

/-! ### A frame on the inbound Voice Link (R158, R162) -/

theorem kindOf_kindByte {kind address : Nat} (hkind : kind < 16) (haddress : address < 16) :
    kindOf (kindByte kind address) = kind := by
  rw [kindOf, kindByte, toNat_byte (by omega)]
  omega

theorem addressOf_kindByte {kind address : Nat} (hkind : kind < 16) (haddress : address < 16) :
    addressOf (kindByte kind address) = address := by
  rw [addressOf, kindByte, toNat_byte (by omega)]
  omega

/-- A frame whose check holds is judged as a frame of the engine it names, if there is one (R158, test 3). -/
theorem judgeVoiceLink_closed {kind address : Nat} (body : List Byte) (hkind : kind < 16) (haddress : address < 16) :
    judgeVoiceLink (closed (kindByte kind address :: body)) =
      if h : address < 4 then judgeEngineFrame ⟨address, h⟩ kind (closed (kindByte kind address :: body)) else none := by
  have hcheck : checkHolds (closed (kindByte kind address :: body)) = true := checkHolds_closed _
  simp only [closed, List.cons_append] at hcheck ⊢
  simp only [judgeVoiceLink, hcheck, kindOf_kindByte hkind haddress, addressOf_kindByte hkind haddress, Bool.not_true,
    Bool.false_eq_true, if_false]

/-- A short frame that ends on the quiet inbound Voice Link of a running part is judged whole (R154, R165). -/
theorem State.whenRunning_receive {s : State} (l : Link) {frame : List Byte} (hs : s.linesQuiet) (hlength : frame.length < 48) :
    s.whenRunning (s.receive l frame) = (s.heard l).judgeFrame l frame :=
  (s.whenRunning_running _ hs.1).trans (s.receive_quiet l frame (hs.collected l) hlength)

/-! ### A TAIL DONE (R94) -/

/-- The TAIL DONE frame of an engine number, a voice number and a tag, in range or not (R162). -/
def tailDoneFrame (a : BitVec 4) (n tag : Byte) : List Byte := closed [kindByte 2 a.toNat, n, tag]

/-- The end of a TAIL DONE frame on the quiet link has the effect of the frame's judgment (R154, R158). -/
theorem exec_tailDone {s : State} (a : BitVec 4) (n tag : Byte) (hs : s.linesQuiet) :
    exec (.tailDone a (tailDoneFrame a n tag).tail) s =
      .next ((s.heard .voice).judgeFrame .voice (tailDoneFrame a n tag)) := by
  have hlength : (tailDoneFrame a n tag).length = 4 := rfl
  calc exec (.tailDone a (tailDoneFrame a n tag).tail) s
      = .next (s.whenRunning (s.receive .voice (tailDoneFrame a n tag))) := rfl
    _ = .next ((s.heard .voice).judgeFrame .voice (tailDoneFrame a n tag)) := by
      rw [State.whenRunning_receive .voice hs (by omega)]

/-- A TAIL DONE frame passes when engine and voice number name a voice (R158, tests 3 and 5). -/
theorem judgeVoiceLink_tailDoneFrame (a : BitVec 4) (n tag : Byte) :
    judgeVoiceLink (tailDoneFrame a n tag) =
      if h : a.toNat < 4 then (indexOf 24 n).map fun k => .tailDone (voiceAt ⟨a.toNat, h⟩ k) tag else none :=
  judgeVoiceLink_closed [n, tag] (by decide) a.isLt

theorem judgeVoiceLink_tailDoneFrame_outside {a : BitVec 4} {n : Byte} (tag : Byte) (h : 4 ≤ a.toNat ∨ 24 ≤ n.toNat) :
    judgeVoiceLink (tailDoneFrame a n tag) = none := by
  rw [judgeVoiceLink_tailDoneFrame]
  obtain hengine | hvoice := h
  · exact dif_neg (Nat.not_lt.mpr hengine)
  · simp only [indexOf_outside n hvoice, Option.map_none, dite_eq_ite, ite_self]

/-- The TAIL DONE frame of an engine, by its number in four bits. -/
theorem tailDoneFrame_engine (e : EngineId) (n tag : Byte) :
    tailDoneFrame (BitVec.ofNat 4 e.val) n tag = engineFrame 2 e [n, tag] := by
  rw [tailDoneFrame, BitVec.toNat_ofNat, Nat.mod_eq_of_lt (by omega)]
  rfl

theorem judgeVoiceLink_tailDoneFrame_voice (e : EngineId) (n : Fin 24) (tag : Byte) :
    judgeVoiceLink (tailDoneFrame (BitVec.ofNat 4 e.val) (byte n.val) tag) = some (.tailDone (voiceAt e n) tag) := by
  have hengine : (BitVec.ofNat 4 e.val).toNat = e.val := Nat.mod_eq_of_lt (by omega)
  simp only [judgeVoiceLink_tailDoneFrame, hengine, e.isLt, dif_pos, indexOf_byte n (by decide), Option.map_some, Fin.eta]

/-- The TAIL DONE frame of a voice reaches its record (R94). -/
theorem exec_tailDone_voice {s : State} (e : EngineId) (n : Fin 24) (tag : Byte) (hs : s.linesQuiet) :
    exec (.tailDone (BitVec.ofNat 4 e.val) (engineFrame 2 e [byte n.val, tag]).tail) s =
      .next ((s.heard .voice).tailDone (voiceAt e n) tag) := by
  rw [← tailDoneFrame_engine, exec_tailDone _ _ _ hs]
  simp only [State.judgeFrame, judgeVoiceLink_tailDoneFrame_voice, State.routeVoiceLink]

/-- A TAIL DONE with the record's tag frees a RELEASING voice that owes nothing (R94). -/
theorem State.tailDone_current {s : State} {v : VoiceId} {tag : Byte}
    (h : (s.voice v).tag = tag ∧ (s.voice v).state = .releasing ∧ (s.voice v).pending = none) :
    s.tailDone v tag = s.setVoice v { s.voice v with state := .free, tailTimer := none } := if_pos h

/-- Any other TAIL DONE is ignored (R94). -/
theorem State.tailDone_stale {s : State} {v : VoiceId} {tag : Byte}
    (h : ¬ ((s.voice v).tag = tag ∧ (s.voice v).state = .releasing ∧ (s.voice v).pending = none)) :
    s.tailDone v tag = s := if_neg h

/-- Settles O35: a frame that names no voice fails its tests, and one that names a voice is decided by the voice's record. -/
theorem tailDoneFreesCurrentTail : Obligations.TailDoneFreesCurrentTail := by
  unfold Obligations.TailDoneFreesCurrentTail
  constructor
  · intro s a n tag hquiet houtside
    refine (exec_tailDone a n tag hquiet).trans ?_
    simp only [State.judgeFrame, judgeVoiceLink_tailDoneFrame_outside tag houtside]
  · intro s e n tag hquiet v current
    rw [exec_tailDone_voice e n tag hquiet]
    exact ⟨fun hcurrent => congrArg Host.Outcome.next (State.tailDone_current hcurrent),
      fun hstale => congrArg Host.Outcome.next (State.tailDone_stale hstale)⟩

end Sys2Proof.Machine
end

section
/-! PROOFS. The checksum of a block of Table Memory (R124, R126). -/

namespace Sys2Proof.Machine

/-- The running sum is the sum of each byte times its number, the numbers counted on from the first one. -/
theorem weightedSum_eq_sum (bytes : List Byte) (first : Nat) :
    weightedSum first bytes =
      ((List.range bytes.length).map fun n => (first + n) * (bytes.getD n 0).toNat).sum := by
  induction bytes generalizing first with
  | nil => rfl
  | cons x xs ih =>
    have hshift : ∀ n, first + 1 + n = first + (n + 1) := fun n => by omega
    simp only [weightedSum, ih, hshift, List.length_cons, List.range_succ_eq_map, List.map_cons, List.map_map,
      List.sum_cons, Function.comp_def, List.getD_cons_zero, List.getD_cons_succ, Nat.succ_eq_add_one, Nat.add_zero]

/-- The numbers of R126 are counted from 1. -/
theorem weightedSum_one (bytes : List Byte) :
    weightedSum 1 bytes = ((List.range bytes.length).map fun n => (n + 1) * (bytes.getD n 0).toNat).sum := by
  simp only [weightedSum_eq_sum, Nat.add_comm 1]

/-- A block with a header is considered up to its entry count, at most 127 (R124). -/
theorem Block.lastPosition_of_header {b : Block} {h : Image} (hheader : b.header = some h) :
    b.lastPosition = min 127 (entryCount h) := by
  simp only [Block.lastPosition, hheader]

/-- The computed checksum of a block with a kind and a header runs over the positions R124 considers. -/
theorem Block.computedChecksum_eq {b : Block} {k : TableKind} {h : Image} (hkind : b.kind = some k)
    (hheader : b.header = some h) : b.computedChecksum = b.checksum k (min 127 (entryCount h)) := by
  simp only [Block.computedChecksum, hkind, Block.lastPosition_of_header hheader]

/-- Settles O30: the sum over the bytes of the positions considered, its numbers counted up as it runs, is the sum over the
numbered bytes. -/
theorem checksumWeighsBytes : Obligations.ChecksumWeighsBytes := by
  unfold Obligations.ChecksumWeighsBytes
  intro b k h hkind hheader
  calc b.computedChecksum = b.checksum k (min 127 (entryCount h)) := Block.computedChecksum_eq hkind hheader
    _ = _ := congrArg (· % 65536) (weightedSum_one _)

end Sys2Proof.Machine
end

section
/-! PROOFS. The notices of the Management Unit: the command NOTICE MASK SET, what the mask makes of an offer, and the selection of
a NOTICE (R115, R170, R171). -/

namespace Sys2Proof.Machine

/-! ### NOTICE MASK SET (R163, R171) -/

theorem exec_noticeMaskSet (s : State) (tag : Byte) (params : List Byte) :
    exec (.noticeMaskSet tag params) s = .next (s.consoleCommand 0x60 tag params) := rfl

theorem State.noticeMaskSet_badLength (s : State) {params : List Byte} (h : params.length ≠ 1) :
    s.noticeMaskSet params = badLength := by
  match params, h with
  | [], _ => rfl
  | [_], h => exact absurd rfl h
  | _ :: _ :: _, _ => rfl

/-- Bit 7 of a mask is the kind of no notice. -/
theorem State.noticeMaskSet_badValue (s : State) {m : Byte} (h : m.getLsbD 7 = true) : s.noticeMaskSet [m] = badValue :=
  if_pos h

theorem State.noticeMaskSet_done (s : State) {m : Byte} (h : m.getLsbD 7 = false) :
    s.noticeMaskSet [m] = .done (s.setMgmt { s.mgmt with mask := m }) [m] :=
  if_neg (Bool.eq_false_iff.1 h)

/-- The reply of a command that sets the mask is built over the new mask. -/
theorem State.consoleCommand_noticeMaskSet (s : State) (tag : Byte) {m : Byte} (h : s.consoleReady) (hm : m.getLsbD 7 = false) :
    s.consoleCommand 0x60 tag [m] = State.answered { s with mgmt := { s.mgmt with mask := m } } tag 0x60 none [m] := by
  have ⟨_, hidle, _⟩ := h
  have hdone := ((s.held tag 0x60).carryOut_noticeMaskSet tag [m]).trans ((s.held tag 0x60).noticeMaskSet_done hm)
  rw [s.consoleCommand_ready 0x60 tag [m] h (by simp), s.startHeld_done _ ⟨tag, 0x60, [m]⟩ [m] h hdone rfl]
  simp only [State.setMgmt, State.held, State.answered, hidle]

/-! ### Offers (R170) -/

theorem State.offer_masked {s : State} {n : Notice} (h : s.mgmt.mask.getLsbD (n.code - 1) = false) : s.offer n = s := by
  simp [State.offer, State.setMgmt, Management.offer, Management.allows, h]

theorem State.offer_queued {s : State} {n : Notice} (hallowed : s.mgmt.mask.getLsbD (n.code - 1) = true)
    (hroom : s.mgmt.notices.length < 8) :
    s.offer n = { s with mgmt := { s.mgmt with notices := s.mgmt.notices ++ [n] } } := by
  simp [State.offer, State.setMgmt, Management.offer, Management.allows, hallowed, hroom]

theorem State.offer_dropped {s : State} {n : Notice} (hallowed : s.mgmt.mask.getLsbD (n.code - 1) = true)
    (hfull : 8 ≤ s.mgmt.notices.length) : s.offer n = { s with mgmt := { s.mgmt with noticesDropped := true } } := by
  simp [State.offer, State.setMgmt, Management.offer, Management.allows, hallowed, Nat.not_lt.2 hfull]

/-! ### The mask after a reset (R172) -/

theorem State.cleared_mask (s : State) (p : Power) : (s.cleared p).mgmt.mask = 0x4F := rfl

theorem State.fullEffects_mask (s : State) : s.fullEffects.mgmt.mask = 0x4F := rfl

/-! ### The selection of a NOTICE (R115, R170) -/

theorem exec_selection (s : State) (h : s.power = .running) : exec .selection s = .next s.selection :=
  congrArg Host.Outcome.next (s.whenRunning_running _ h)

/-- The bytes of a NOTICE: kind 10 to address 14 (R159, R162). -/
theorem noticeFrame_eq (n : Notice) (dropped : Bool) :
    noticeFrame n dropped =
      closed ([0xAE, byte n.code, if dropped = true then 1 else 0, byte n.subject.length] ++ n.subject) := rfl

theorem State.takeNotice_cons {s : State} {n : Notice} {rest : List Notice} (h : s.mgmt.notices = n :: rest) :
    s.takeNotice =
      (noticeFrame n s.mgmt.noticesDropped, s.setMgmt { s.mgmt with notices := rest, noticesDropped := false }) := by
  simp only [State.takeNotice, h]

/-- Taking a NOTICE changes the notice queue with its flag, and the arbiter. -/
theorem State.take_notice {s : State} {n : Notice} {rest : List Notice} (c : ServiceClass) (band : Option Band)
    (h : s.mgmt.notices = n :: rest) :
    s.take ⟨c, .notice, band⟩ = { s with
      arbiter := (s.arbiter.moved ⟨c, .notice, band⟩).sending c (noticeFrame n s.mgmt.noticesDropped)
      mgmt := { s.mgmt with notices := rest, noticesDropped := false } } := by
  simp only [State.take, State.takeItem, State.takeNotice_cons h]
  rfl

theorem State.selection_notice {s : State} {c : ServiceClass} {band : Option Band} (hidle : s.arbiter.transmitter = none)
    (hchoice : s.choice = some ⟨c, .notice, band⟩) : s.selection = s.take ⟨c, .notice, band⟩ :=
  s.selection_eq _ hidle hchoice

/-- Settles O43: by the command's length and value, by the branches of an offer, and by what a selection of a NOTICE takes. -/
theorem noticeMaskGovernsOffers : Obligations.NoticeMaskGovernsOffers := by
  unfold Obligations.NoticeMaskGovernsOffers
  refine ⟨fun s tag params h hn => ?command, fun s n => ⟨State.offer_masked, State.offer_queued, State.offer_dropped⟩,
    fun s => ⟨s.cleared_mask .inReset, s.fullEffects_mask⟩, fun s n rest band hrun hidle hchoice hqueue => ?taken⟩
  case command =>
    refine ⟨fun hlength => ?_, fun m hparams hbit => ?_, fun m hparams hbit => ?_⟩
    · rw [exec_noticeMaskSet, s.consoleCommand_refused 0x60 tag params .badLength [] h hn
        ((State.carryOut_noticeMaskSet _ tag _).trans (State.noticeMaskSet_badLength _ hlength))]
    · rw [hparams, exec_noticeMaskSet, s.consoleCommand_refused 0x60 tag [m] .badValue [] h (by simp)
        ((State.carryOut_noticeMaskSet _ tag _).trans (State.noticeMaskSet_badValue _ hbit))]
    · rw [hparams, exec_noticeMaskSet, s.consoleCommand_noticeMaskSet tag h hbit]
  case taken =>
    rw [← noticeFrame_eq n s.mgmt.noticesDropped]
    refine ⟨(s.arbiter.moved ⟨.notice, .notice, band⟩).sending .notice (noticeFrame n s.mgmt.noticesDropped),
      s.arbiter.serves_sending ⟨.notice, .notice, band⟩ _ (fun v hv => nomatch hv), ?_⟩
    rw [exec_selection s hrun, State.selection_notice hidle hchoice, State.take_notice .notice band hqueue]

end Sys2Proof.Machine
end

section
/-! PROOFS. What the events at a performer's context can do to the part, said once as a path of small moves: its own context is
written, a voice record answers a request, a note of another performer loses a voice, a notice is offered. -/

namespace Sys2Proof.Machine

/-! ### The moves -/

/-- A binding of a kind, active or staged, names a block (R5, R142). -/
def Bindings.namesAt (b : Bindings) (k : TableKind) (x : BlockId) : Prop :=
  (b.get k).active = some x ∨ ∃ st, (b.get k).staged = some st ∧ st.target = some x

/-- Bindings name no block, under any kind, that earlier ones did not. -/
def Bindings.within (b c : Bindings) : Prop := ∀ k x, b.namesAt k x → c.namesAt k x

theorem Bindings.within_refl (b : Bindings) : b.within b := fun _ _ h => h

/-- What a request of the Voice Planner leaves of a voice record: an end, retake or set-flag request, a grant of a FREE voice, a
steal of a RELEASING or SOUNDING one (R82 to R87). -/
inductive Voice.Answers (r : Voice) : Voice → Prop where
  | ended (now : Stamp) : Voice.Answers r (r.ended now)
  | retaken (program velocity : Nat) : Voice.Answers r (r.retaken program velocity)
  | flagged (x : UpdateFlag) : Voice.Answers r (r.flagged x)
  | granted (i : Slot) (index : Nat) (layer : Layer) (velocity : Nat) (now : Stamp) (h : r.state = .free) :
      Voice.Answers r (r.granted i index layer velocity now)
  | stolen (i : Slot) (index : Nat) (layer : Layer) (velocity : Nat) (now : Stamp)
      (h : r.state = .releasing ∨ r.state = .sounding) : Voice.Answers r (r.stolen i index layer velocity now)

/-- The states that an event at a performer's context can pass through. -/
inductive SectionPath (i : Slot) (s : State) : State → Prop where
  | refl : SectionPath i s s
  | own {t : State} (h : SectionPath i s t) (c : Context) (hb : c.bindings.within (t.ctx i).bindings) :
      SectionPath i s (t.setCtx i c)
  | rob {t : State} (h : SectionPath i s t) (o : Slot) (v : VoiceId) :
      SectionPath i s (t.setCtx o ((t.ctx o).lose (· == v)))
  | voice {t : State} (h : SectionPath i s t) (v : VoiceId) (r : Voice) (hr : (t.voice v).Answers r) :
      SectionPath i s (t.setVoice v r)
  | offer {t : State} (h : SectionPath i s t) (n : Notice) : SectionPath i s (t.offer n)

namespace SectionPath

variable {i : Slot} {s t u : State}

theorem trans (h : SectionPath i s t) (h' : SectionPath i t u) : SectionPath i s u := by
  induction h' with
  | refl => exact h
  | own _ c hb ih => exact ih.own c hb
  | rob _ o v ih => exact ih.rob o v
  | voice _ v r hr ih => exact ih.voice v r hr
  | offer _ n ih => exact ih.offer n

/-- The performer's context is changed beside its bindings. -/
theorem updCtx (h : SectionPath i s t) (f : Context → Context) (hb : (f (t.ctx i)).bindings = (t.ctx i).bindings) :
    SectionPath i s (t.updCtx i f) := h.own _ (by rw [hb]; exact Bindings.within_refl _)

theorem ite (p : Prop) [Decidable p] (h : SectionPath i s t) (h' : SectionPath i s u) :
    SectionPath i s (if p then t else u) := by
  split
  · exact h
  · exact h'

theorem forEach {α : Type} (l : List α) (f : α → State → State) (hf : ∀ a t, SectionPath i t (f a t)) (s : State) :
    SectionPath i s (forEach l f s) := by
  induction l generalizing s with
  | nil => exact .refl
  | cons a l ih => exact (hf a s).trans (ih (f a s))

/-! ### What a path keeps -/

theorem onlySection (h : SectionPath i s t) : s.onlySection t := by
  induction h with
  | refl => exact .refl s
  | own _ c _ ih => exact ih.trans (State.onlySection_setCtx _ _ _)
  | rob _ o v ih => exact ih.trans (State.onlySection_setCtx _ _ _)
  | voice _ v r _ ih => exact ih.trans (State.onlySection_setVoice _ _ _)
  | offer _ n ih => exact ih.trans (State.onlySection_offer _ _)

/-- The other performers keep their contexts but for the voices of their notes. -/
theorem others (h : SectionPath i s t) {j : Slot} (hj : j ≠ i) :
    ∃ note, t.ctx j = { s.ctx j with note := note } ∧ note.map (·.pitch) = (s.ctx j).note.map (·.pitch) := by
  induction h with
  | refl => exact ⟨_, rfl, rfl⟩
  | own _ c _ ih => rwa [State.ctx_setCtx_ne _ _ _ _ hj]
  | rob _ o v ih =>
    obtain ⟨note, hctx, hpitch⟩ := ih
    rw [State.ctx_setCtx]
    split
    · next ho =>
      subst ho
      refine ⟨note.map (·.without (· == v)), by rw [hctx]; rfl, ?_⟩
      rw [← hpitch, Option.map_map]
      rfl
    · exact ⟨note, hctx, hpitch⟩
  | voice _ v r _ ih => exact ih
  | offer _ n ih => exact ih

/-- No binding of any performer names a block that it did not name before. -/
theorem within (h : SectionPath i s t) (j : Slot) : (t.ctx j).bindings.within (s.ctx j).bindings := by
  induction h with
  | refl => exact Bindings.within_refl _
  | own _ c hb ih =>
    rw [State.ctx_setCtx]
    split
    · next hj => subst hj; exact fun k x hx => ih k x (hb k x hx)
    · exact ih
  | rob _ o v ih =>
    rw [State.ctx_setCtx]
    split
    · next hj => subst hj; exact ih
    · exact ih
  | voice _ v r _ ih => exact ih
  | offer _ n ih => exact ih

end SectionPath

/-- An offer keeps the notice queue within its capacity (R170). -/
theorem Management.offer_notices_length {m : Management} (n : Notice) (h : m.notices.length ≤ 8) :
    (m.offer n).notices.length ≤ 8 := by
  unfold Management.offer
  split
  · exact h
  · split
    · next hroom => rw [List.length_append]; exact hroom
    · exact h

theorem SectionPath.notices_length {i : Slot} {s t : State} (h : SectionPath i s t) (hs : s.mgmt.notices.length ≤ 8) :
    t.mgmt.notices.length ≤ 8 := by
  induction h with
  | refl => exact hs
  | own _ c _ ih => exact ih
  | rob _ o v ih => exact ih
  | voice _ v r _ ih => exact ih
  | offer _ n ih => exact Management.offer_notices_length n ih

/-! ### Requests to voices -/

theorem State.path_endVoices (s : State) (i : Slot) : SectionPath i s (s.endVoices i) :=
  SectionPath.forEach _ _ (fun v t => SectionPath.refl.voice v _ (.ended t.timebase)) s

theorem State.path_flagVoices (s : State) (i : Slot) (x : UpdateFlag) (p : VoiceId → Bool) :
    SectionPath i s (s.flagVoices i x p) :=
  SectionPath.forEach _ _ (fun v _ => SectionPath.refl.voice v _ (.flagged x)) s

theorem State.path_flagIf (s : State) (i : Slot) (x : UpdateFlag) (changed : Bool) :
    SectionPath i s (s.flagIf i x changed) := by
  unfold State.flagIf
  split
  · exact s.path_flagVoices i x _
  · exact .refl

theorem State.path_retakeIfRestrike (s : State) (i : Slot) (v : VoiceId) (velocity : Nat) :
    SectionPath i s (s.retakeIfRestrike v velocity) := by
  unfold State.retakeIfRestrike
  split
  · split
    · exact SectionPath.refl.voice v _ (.retaken _ _)
    · exact .refl
  · exact .refl

/-- The old owner loses the voice, and the record is the requester's (R87). -/
theorem State.path_steal (s : State) (v : VoiceId) (i : Slot) (index : Nat) (layer : Layer) (velocity : Nat)
    (h : (s.voice v).state = .releasing ∨ (s.voice v).state = .sounding) :
    SectionPath i s (s.steal v i index layer velocity) := by
  unfold State.steal
  rcases s.dispossess_cases v with e | ⟨o, _, _, e⟩ <;> rw [e]
  · exact SectionPath.refl.voice v _ (.stolen i index layer velocity _ h)
  · exact (SectionPath.refl.rob o v).voice v _ (.stolen i index layer velocity _ h)

theorem State.freeVoice_state {s : State} {engine : Nat} {v : VoiceId} (h : s.freeVoice engine = some v) :
    (s.voice v).state = .free := by
  simpa using List.find?_some h

theorem State.oldestReleasing_state {s : State} {engine : Nat} {v : VoiceId} (h : s.oldestReleasing engine = some v) :
    (s.voice v).state = .releasing := by
  simpa using (List.mem_filter.1 (best_mem _ _ _ h)).2

theorem State.victim_stealable {s : State} {i : Slot} {engine : Nat} {v : VoiceId} (h : s.victim i engine = some v) :
    s.stealable i v = true := (List.mem_filter.1 (best_mem _ _ _ h)).2

theorem State.stealable_iff (s : State) (i : Slot) (v : VoiceId) :
    s.stealable i v = true ↔ (s.voice v).state = .sounding ∧ ∃ o, (s.voice v).owner = some o ∧ o ≠ i ∧
      (s.ctx o).settings.precedence < (s.ctx i).settings.precedence := by
  unfold State.stealable
  cases (s.voice v).owner with
  | none => simp
  | some o => simp

theorem State.path_allocate (s : State) (i : Slot) (index : Nat) (layer : Layer) (velocity : Nat) :
    SectionPath i s (s.allocate i index layer velocity).2 := by
  unfold State.allocate
  split
  · next v hv => exact SectionPath.refl.voice v _ (.granted i index layer velocity _ (State.freeVoice_state hv))
  · split
    · next v hv => exact s.path_steal v i index layer velocity (.inl (State.oldestReleasing_state hv))
    · split
      · next v hv =>
        exact s.path_steal v i index layer velocity (.inr ((s.stealable_iff i v).1 (State.victim_stealable hv)).1)
      · exact SectionPath.refl.offer _

theorem State.path_allocateLayer (s : State) (i : Slot) (velocity index : Nat) (layer : Layer) :
    SectionPath i s (s.allocateLayer i velocity index layer) := by
  rw [State.allocateLayer_eq]
  exact (s.path_allocate i index layer velocity).own _ (Bindings.within_refl _)

theorem State.path_allocateLayers (s : State) (i : Slot) (velocity index : Nat) (layers : List Layer) :
    SectionPath i s (s.allocateLayers i velocity index layers) := by
  induction layers generalizing s index with
  | nil => exact .refl
  | cons l ls ih => exact (s.path_allocateLayer i velocity index l).trans (ih _ (index + 1))

/-! ### Notes and glides -/

theorem State.path_plannerStart (s : State) (i : Slot) (pitch velocity : Nat) :
    SectionPath i s (s.plannerStart i pitch velocity) :=
  (SectionPath.refl.updCtx _ rfl).trans (State.path_allocateLayers _ i velocity 1 _)

theorem State.path_noteEnd (s : State) (i : Slot) : SectionPath i s (s.noteEnd i) := (s.path_endVoices i).updCtx _ rfl

theorem State.path_abandon (s : State) (i : Slot) : SectionPath i s (s.abandon i) :=
  (SectionPath.refl.updCtx _ rfl).trans (State.path_noteEnd _ i)

theorem State.path_retargetGlide (s : State) (i : Slot) (cents glideTime : Nat) :
    SectionPath i s (s.retargetGlide i cents glideTime) := by
  unfold State.retargetGlide
  dsimp only
  split
  · exact (SectionPath.refl.updCtx _ rfl).trans (State.path_flagVoices _ i _ _)
  · exact SectionPath.refl.updCtx _ rfl

theorem State.path_glideStep (s : State) (i : Slot) : SectionPath i s (s.glideStep i) := by
  unfold State.glideStep
  dsimp only
  split
  · split
    · exact (SectionPath.refl.updCtx _ rfl).trans (State.path_flagVoices _ i _ _)
    · exact SectionPath.refl.updCtx _ rfl
  · exact .refl

theorem State.path_inZone (s : State) (i : Slot) (velocity pitch glideTime : Nat) :
    SectionPath i s (s.inZone i velocity pitch glideTime) :=
  ((SectionPath.refl.updCtx _ rfl).trans
    (SectionPath.forEach _ _ (fun v t => t.path_retakeIfRestrike i v velocity) _)).trans
      (State.path_retargetGlide _ i _ _)

theorem State.path_differentZone (s : State) (i : Slot) (velocity pitch : Nat) (z : Option (Nat × Zone)) :
    SectionPath i s (s.differentZone i velocity pitch z) :=
  ((s.path_endVoices i).updCtx _ rfl).trans (State.path_allocateLayers _ i velocity 1 _)

theorem State.path_transition (s : State) (i : Slot) (pitch : Nat) : SectionPath i s (s.transition i pitch) := by
  unfold State.transition
  split
  · exact .refl
  · split
    · exact SectionPath.refl.updCtx _ rfl
    · split
      · exact s.path_inZone i _ _ _
      · exact s.path_differentZone i _ _ _
    · exact s.path_differentZone i _ _ _
    · exact s.path_differentZone i _ _ _

/-! ### Staged bindings and the entries to READY and ABSENT -/

theorem Bindings.applied_within (b : Bindings) (k : TableKind) : (b.applied k).within b := by
  unfold Bindings.applied
  split
  · next st hst =>
    intro k' x hx
    by_cases hk : k' = k
    · subst hk
      simp only [Bindings.namesAt, Bindings.get_set_same, reduceCtorEq, false_and, exists_false, or_false] at hx
      exact .inr ⟨st, hst, hx⟩
    · simpa only [Bindings.namesAt, Bindings.get_set_ne _ _ _ _ hk] using hx
  · exact b.within_refl

theorem State.path_applyStaged (s : State) (i : Slot) (timing : StagedTiming) (k : TableKind) :
    SectionPath i s (s.applyStaged i timing k) := by
  unfold State.applyStaged
  split
  · split
    · exact (SectionPath.refl.own _ (Bindings.applied_within _ k)).offer _
    · exact .refl
  · exact .refl

theorem State.path_applyAll (s : State) (i : Slot) (timing : StagedTiming) : SectionPath i s (s.applyAll i timing) :=
  SectionPath.forEach _ _ (fun k t => t.path_applyStaged i timing k) s

theorem State.path_enterReady (s : State) (i : Slot) : SectionPath i s (s.enterReady i) :=
  (SectionPath.refl.updCtx _ rfl).trans (State.path_applyAll _ i _)

theorem State.path_enterAbsent (s : State) (i : Slot) : SectionPath i s (s.enterAbsent i) :=
  (SectionPath.refl.updCtx _ rfl).trans (State.path_applyAll _ i _)

/-! ### Settling -/

theorem State.path_settleCommit (s : State) (i : Slot) (g : Gesture) : SectionPath i s (s.settleCommit i g) := by
  unfold State.settleCommit
  split
  · exact .refl
  · split
    · exact .refl
    · exact (s.path_transition i _).updCtx _ rfl

theorem State.path_judgePattern (s : State) (i : Slot) (g : Gesture) : SectionPath i s (s.judgePattern i g) := by
  unfold State.judgePattern
  dsimp only
  split
  · split
    · split
      · exact s.path_settleCommit i g
      · exact SectionPath.refl.updCtx _ rfl
    · split
      · exact (SectionPath.refl.updCtx _ rfl).trans (State.path_settleCommit _ i g)
      · exact SectionPath.refl.updCtx _ rfl
    all_goals exact .refl
  · exact .refl

theorem State.path_settleExpiry (s : State) (i : Slot) : SectionPath i s (s.settleExpiry i) := by
  unfold State.settleExpiry
  dsimp only
  split
  · split
    · exact (SectionPath.refl.updCtx _ rfl).trans (State.path_settleCommit _ i _)
    · exact SectionPath.refl.updCtx _ rfl
  · exact .refl

/-! ### Breath -/

theorem State.path_noteStart (s : State) (i : Slot) (attackTime : Nat) (g : Gesture) :
    SectionPath i s (s.noteStart i attackTime g) := by
  unfold State.noteStart
  exact ((SectionPath.refl.updCtx _ rfl).trans (State.path_plannerStart _ i _ _)).updCtx _ rfl

theorem State.path_beginOnset (s : State) (i : Slot) (g : Gesture) : SectionPath i s (s.beginOnset i g) := by
  unfold State.beginOnset
  dsimp only
  split
  · exact (SectionPath.refl.updCtx _ rfl).trans (State.path_noteStart _ i 0 g)
  · exact (SectionPath.refl.updCtx _ rfl).updCtx _ rfl

theorem State.path_ghost (s : State) (i : Slot) : SectionPath i s (s.ghost i) :=
  (SectionPath.refl.updCtx _ rfl).trans (State.path_enterReady _ i)

theorem State.path_attackFrame (s : State) (i : Slot) (peakDrop : Nat) (g : Gesture) :
    SectionPath i s (s.attackFrame i peakDrop g) := by
  unfold State.attackFrame
  split
  · exact .refl
  · dsimp only
    split
    · exact (SectionPath.refl.updCtx _ rfl).trans (State.path_noteStart _ i _ g)
    · exact SectionPath.refl.updCtx _ rfl

theorem State.path_release (s : State) (i : Slot) : SectionPath i s (s.release i) :=
  ((s.path_noteEnd i).updCtx _ rfl).trans (State.path_enterReady _ i)

theorem State.path_crossing (s : State) (i : Slot) (g : Gesture) : SectionPath i s (s.crossing i g) := by
  unfold State.crossing
  split
  · exact SectionPath.refl.updCtx _ rfl
  · exact s.path_beginOnset i g

theorem State.path_judgeBreath (s : State) (i : Slot) (g : Gesture) : SectionPath i s (s.judgeBreath i g) := by
  unfold State.judgeBreath
  split
  · exact .refl
  · split
    · exact .refl
    · split
      · exact s.path_crossing i g
      · exact .refl
    · split
      · exact s.path_ghost i
      · exact s.path_attackFrame i _ g
    all_goals
      split
      · exact s.path_release i
      · exact .refl

theorem State.path_attackExpiry (s : State) (i : Slot) : SectionPath i s (s.attackExpiry i) := by
  unfold State.attackExpiry
  dsimp only
  split
  · exact .refl
  · split
    · exact ((SectionPath.refl.updCtx _ rfl).updCtx _ rfl).trans (State.path_noteStart _ i _ _)
    · exact SectionPath.refl.updCtx _ rfl

theorem State.path_guardExpiry (s : State) (i : Slot) : SectionPath i s (s.guardExpiry i) := by
  unfold State.guardExpiry
  dsimp only
  split
  · split
    · split
      · exact (SectionPath.refl.updCtx _ rfl).trans (State.path_beginOnset _ i _)
      · exact SectionPath.refl.updCtx _ rfl
    · exact SectionPath.refl.updCtx _ rfl
  · exact .refl

/-! ### The taking of a frame, silence and phrase expiries, and the commands that give a performer up -/

theorem State.path_express (s : State) (i : Slot) (g : Gesture) : SectionPath i s (s.express i g) := by
  unfold State.express
  split
  · exact ((s.path_flagIf i _ _).trans (State.path_flagIf _ i _ _)).trans (State.path_flagIf _ i _ _)
  · exact .refl

theorem State.path_join (s : State) (i : Slot) : SectionPath i s (s.join i) :=
  ((SectionPath.refl.updCtx _ rfl).trans (State.path_applyAll _ i _)).offer _

theorem State.path_takeFrame (s : State) (i : Slot) (g : Gesture) : SectionPath i s (s.takeFrame i g) := by
  unfold State.takeFrame
  refine SectionPath.updCtx (.ite _ (.trans (.ite _ ?_ ?_) (State.path_express _ i g)) (.ite _ ?_ ?_)) _ rfl
  all_goals first
    | exact s.path_judgeBreath i g
    | exact (s.path_judgeBreath i g).trans (State.path_judgePattern _ i g)

theorem State.path_gestureAt (s : State) (i : Slot) (g : Gesture) : SectionPath i s (s.gestureAt i g) := by
  unfold State.gestureAt
  dsimp only
  split
  · split
    · exact (s.path_join i).trans (State.path_takeFrame _ i g)
    all_goals exact (SectionPath.refl.updCtx _ rfl).trans (State.path_takeFrame _ i g)
  · exact .refl

theorem State.path_silenceExpiry (s : State) (i : Slot) : SectionPath i s (s.silenceExpiry i) := by
  unfold State.silenceExpiry
  dsimp only
  split
  · split
    · exact SectionPath.refl.updCtx _ rfl
    all_goals exact ((s.path_abandon i).trans (State.path_enterAbsent _ i)).offer _
  · exact .refl

theorem State.path_phraseExpiry (s : State) (i : Slot) : SectionPath i s (s.phraseExpiry i) := by
  unfold State.phraseExpiry
  dsimp only
  split
  · split
    · exact (SectionPath.refl.updCtx _ rfl).trans (State.path_applyAll _ i _)
    all_goals exact SectionPath.refl.updCtx _ rfl
  · exact .refl

theorem State.path_disable (s : State) (i : Slot) : SectionPath i s (s.disable i) := by
  unfold State.disable
  dsimp only
  split
  · split
    · exact SectionPath.refl.updCtx _ rfl
    all_goals
      exact ((SectionPath.refl.updCtx _ rfl).trans (State.path_abandon _ i)).trans (State.path_enterAbsent _ i)
  · exact .refl

theorem State.path_quiesceContext (s : State) (i : Slot) : SectionPath i s (s.quiesceContext i) := by
  unfold State.quiesceContext
  split
  · exact (s.path_abandon i).trans (State.path_enterReady _ i)
  · exact .refl

end Sys2Proof.Machine
end

section
/-! PROOFS. What a step of the part can be: one event of the running part, a frame judged on a link, a command judged and carried
out. Each is said once, as the cases there are, for the laws that every step keeps. -/

namespace Sys2Proof.Machine

/-! ### Commands that are carried out (R168) -/

/-- What a command leaves that takes no time. -/
inductive State.Prompt (s : State) : State → Prop where
  | unchanged : State.Prompt s s
  | settings (i : Slot) (pairs : List (Nat × Byte)) (h : pairsOk pairs = true) :
      State.Prompt s (s.setCtx i
        { s.ctx i with settings := pairs.foldl (fun x p => x.put p.1 p.2) (s.ctx i).settings })
  | enable (i : Slot) : State.Prompt s (s.setCtx i { s.ctx i with enabled := true })
  | disable (i : Slot) : State.Prompt s (s.disable i)
  | bind (i : Slot) (k : TableKind) (target : Option BlockId) (timing : BindTiming)
      (h : ∀ b, target = some b → (s.block b).state = .valid ∧ (s.block b).kind = some k) :
      State.Prompt s (s.bindAt i k target timing).1
  | tailLimit (e : EngineId) (limit : Byte) (h : limit ≠ 0) :
      State.Prompt s (s.setEngine e { s.engine e with tailLimit := limit.toNat })
  | arbiter (express : Option ServiceClass) (m : BandMap) :
      State.Prompt s (s.setArbiter { s.arbiter with express := express, bands := m })
  | mask (m : Byte) : State.Prompt s (s.setMgmt { s.mgmt with mask := m })

/-- What a command begins that goes on for a time, and the tests it has passed (R128 to R130, R134, R136, R174). -/
inductive State.Begins (s : State) : State → Work → Prop where
  | erase (b : BlockId) (hop : (s.block b).op = none) (hbound : s.bound b = false) (hlocked : (s.block b).locked = false)
      (hworn : (s.block b).eraseCount < 1000) : State.Begins s (s.beginStore b .erase) (.erase b)
  | write (b : BlockId) (first : Nat) (bytes : List Byte) (images : List Image)
      (h : (s.block b).judgeWrite (s.bound b) first bytes = .accept images) :
      State.Begins s (s.beginStore b .write) (.write b first images)
  | commit (b : BlockId) (checksum : Nat) (hop : (s.block b).op = none) (hstate : (s.block b).state = .opened)
      (hfault : (s.block b).commitFault checksum = none) : State.Begins s (s.beginStore b .commit) (.commit b)
  | lock (b : BlockId) (hop : (s.block b).op = none) (hlocked : (s.block b).locked = false)
      (hstate : (s.block b).state = .valid) : State.Begins s (s.beginStore b .lock) (.lock b)
  | clear (h : s.lowestBound = none) : State.Begins s (s.clearReach 0 0 0).1 (s.clearReach 0 0 0).2
  | reset (kind : ResetKind) (limit : Nat) (h : limit ≠ 0) : State.Begins s (s.quiesceBegin kind limit) .reset

/-- The answers there are to a command. -/
inductive State.Answers (s : State) : Answer → Prop where
  | done {t : State} (h : s.Prompt t) (data : List Byte) : State.Answers s (.done t data)
  | refused (cause : Cause) (data : List Byte) : State.Answers s (.refused cause data)
  | started {t : State} {work : Work} (h : s.Begins t work) : State.Answers s (.started t work)

theorem BlockState.isOpen_iff (st : BlockState) : st.isOpen = true ↔ st = .opened := by
  cases st <;> decide

theorem BlockState.isValid_iff (st : BlockState) : st.isValid = true ↔ st = .valid := by
  cases st <;> decide

namespace State

variable (s : State) (params : List Byte)

theorem performerSet_answers : s.Answers (s.performerSet params) := by
  unfold performerSet
  split
  · exact .refused _ _
  · split
    · split
      · exact .refused _ _
      · split
        · next h => exact .done (.settings _ _ h) _
        · exact .refused _ _
    · exact .refused _ _

theorem performerEnable_answers : s.Answers (s.performerEnable params) := by
  unfold performerEnable
  split
  · split
    · exact .refused _ _
    · exact .done (.enable _) _
  · exact .refused _ _

theorem performerDisable_answers : s.Answers (s.performerDisable params) := by
  unfold performerDisable
  split
  · split
    · exact .refused _ _
    · exact .done (.disable _) _
  · exact .refused _ _

theorem performerRead_answers : s.Answers (s.performerRead params) := by
  unfold performerRead
  split
  · split
    · exact .refused _ _
    · exact .done .unchanged _
  · exact .refused _ _

theorem bindCommand_answers : s.Answers (s.bindCommand params) := by
  unfold bindCommand
  split
  · split
    · exact .done (.bind _ _ none _ fun b hb => nomatch hb) _
    · split
      · exact .refused _ _
      · next hvalid =>
        split
        · exact .refused _ _
        · next hkind =>
          refine .done (.bind _ _ (some _) _ fun b hb => ?_) _
          cases hb
          exact ⟨not_not.1 hvalid, not_not.1 hkind⟩
    · exact .refused _ _
  · exact .refused _ _

theorem engineSet_answers : s.Answers (s.engineSet params) := by
  unfold engineSet
  split
  · split
    · exact .refused _ _
    · split
      · exact .refused _ _
      · next h => exact .done (.tailLimit _ _ h) _
  · exact .refused _ _

theorem engineRead_answers : s.Answers (s.engineRead params) := by
  unfold engineRead
  split
  · split
    · exact .refused _ _
    · exact .done .unchanged _
  · exact .refused _ _

theorem voiceRead_answers : s.Answers (s.voiceRead params) := by
  unfold voiceRead
  split
  · split
    · exact .refused _ _
    · exact .done .unchanged _
  · exact .refused _ _

theorem arbiterSet_answers : s.Answers (s.arbiterSet params) := by
  unfold arbiterSet
  split
  · exact .refused _ _
  · split
    · split
      · exact .done (.arbiter _ _) _
      · exact .refused _ _
    · exact .refused _ _

theorem arbiterRead_answers : s.Answers (s.arbiterRead params) := by
  unfold arbiterRead
  split
  · exact .done .unchanged _
  · exact .refused _ _

theorem tableErase_answers : s.Answers (s.tableErase params) := by
  unfold tableErase
  split
  · split
    · exact .refused _ _
    · split
      · exact .refused _ _
      · next hop =>
        split
        · exact .refused _ _
        · next hbound =>
          split
          · exact .refused _ _
          · next hlocked =>
            split
            · exact .refused _ _
            · next hworn =>
              exact .started (.erase _ (by simpa using hop) (by simpa using hbound) (by simpa using hlocked)
                (Nat.lt_of_not_le hworn))
  · exact .refused _ _

theorem tableWrite_answers : s.Answers (s.tableWrite params) := by
  unfold tableWrite
  split
  · split
    · exact .refused _ _
    · split
      · exact .refused _ _
      · next h => exact .started (.write _ _ _ _ h)
  · exact .refused _ _

theorem tableCommit_answers : s.Answers (s.tableCommit params) := by
  unfold tableCommit
  split
  · split
    · exact .refused _ _
    · split
      · exact .refused _ _
      · next hin =>
        split
        · exact .refused _ _
        · next hfault =>
          simp only [Block.notIn, Bool.or_eq_true, Bool.not_eq_true', not_or, Bool.not_eq_false, BlockState.isOpen_iff,
            Bool.not_eq_true, Option.isSome_eq_false_iff, Option.isNone_iff_eq_none] at hin
          exact .started (.commit _ _ hin.1 hin.2 hfault)
  · exact .refused _ _

theorem tableVerify_answers : s.Answers (s.tableVerify params) := by
  unfold tableVerify
  split
  · split
    · exact .refused _ _
    · split
      · exact .refused _ _
      · exact .done .unchanged _
  · exact .refused _ _

theorem tableBlankCheck_answers : s.Answers (s.tableBlankCheck params) := by
  unfold tableBlankCheck
  split
  · split
    · exact .refused _ _
    · split
      · exact .refused _ _
      · exact .done .unchanged _
  · exact .refused _ _

theorem tableRead_answers : s.Answers (s.tableRead params) := by
  unfold tableRead
  split
  · split
    · exact .refused _ _
    · split
      · exact .refused _ _
      · split
        · exact .refused _ _
        · split
          · exact .refused _ _
          · exact .done .unchanged _
  · exact .refused _ _

theorem tableLock_answers : s.Answers (s.tableLock params) := by
  unfold tableLock
  split
  · split
    · exact .refused _ _
    · split
      · exact .refused _ _
      · next hop =>
        split
        · exact .refused _ _
        · next hlocked =>
          split
          · exact .refused _ _
          · next hstate =>
            exact .started (.lock _ (by simpa using hop) (by simpa using hlocked)
              ((BlockState.isValid_iff _).1 (by simpa using hstate)))
  · exact .refused _ _

theorem blockRead_answers : s.Answers (s.blockRead params) := by
  unfold blockRead
  split
  · split
    · exact .refused _ _
    · exact .done .unchanged _
  · exact .refused _ _

theorem storeClear_answers : s.Answers (s.storeClear params) := by
  unfold storeClear
  split
  · split
    · exact .refused _ _
    · next h => exact .started (.clear h)
  · exact .refused _ _

theorem noticeMaskSet_answers : s.Answers (s.noticeMaskSet params) := by
  unfold noticeMaskSet
  split
  · split
    · exact .refused _ _
    · exact .done (.mask _) _
  · exact .refused _ _

theorem resetWith_answers (kind : Byte) (limit : Nat) : s.Answers (s.resetWith kind limit) := by
  unfold resetWith
  split
  · exact .refused _ _
  · split
    · exact .refused _ _
    · next h => exact .started (.reset _ _ h)

theorem resetCommand_answers : s.Answers (s.resetCommand params) := by
  unfold resetCommand
  split
  · exact s.resetWith_answers _ _
  · exact s.resetWith_answers _ _
  · exact .refused _ _

/-- Judging and carrying out a command gives one of the answers there are, by its code (R163, R168). -/
theorem carryOut_answers (c : Cmd) : s.Answers (s.carryOut c) := by
  unfold carryOut
  split
  · exact s.performerSet_answers _
  · exact s.performerEnable_answers _
  · exact s.performerDisable_answers _
  · exact s.performerRead_answers _
  · exact s.bindCommand_answers _
  · exact s.engineSet_answers _
  · exact s.engineRead_answers _
  · exact s.voiceRead_answers _
  · exact s.arbiterSet_answers _
  · exact s.arbiterRead_answers _
  · exact s.tableErase_answers _
  · exact s.tableWrite_answers _
  · exact s.tableCommit_answers _
  · exact s.tableVerify_answers _
  · exact s.tableBlankCheck_answers _
  · exact s.tableRead_answers _
  · exact s.tableLock_answers _
  · exact s.blockRead_answers _
  · exact s.storeClear_answers _
  · exact s.noticeMaskSet_answers _
  · exact s.resetCommand_answers _
  · exact .refused _ _

end State

/-! ### Commands that start (R167) -/

/-- What the start of a command leaves: a reply, or the command in progress; a RESET's quiesce is tested at once. -/
inductive State.Starts (s : State) (c : Cmd) : State → Prop where
  | refused (cause : Cause) (data : List Byte) : State.Starts s c (s.buildReply (some cause) data)
  | done {t : State} (h : s.Prompt t) (data : List Byte) : State.Starts s c (t.buildReply none data)
  | going {t : State} {work : Work} (h : s.Begins t work) (hw : work ≠ .reset) : State.Starts s c (t.setInProgress c work)
  | reset (kind : ResetKind) (limit : Nat) (h : limit ≠ 0) :
      State.Starts s c (((s.quiesceBegin kind limit).setInProgress c .reset).quiesceTest)

theorem State.clearReach_work (s : State) (b : BlockId) (erased : Nat) (worn : BlockSet) :
    (s.clearReach b erased worn).2 = .storeClear b erased worn ∨ (s.clearReach b erased worn).2 = .passOver b erased worn := by
  unfold State.clearReach
  dsimp only
  split
  · exact .inl rfl
  · exact .inr rfl

/-- A command that goes on for a time and is not a RESET is in progress (R167). -/
theorem State.startHeld_going {s t : State} {c : Cmd} {work : Work} (h : s.carryOut c = .started t work)
    (hw : work ≠ .reset) : s.startHeld c = t.setInProgress c work := by
  unfold State.startHeld
  rw [h]
  cases work with
  | reset => exact absurd rfl hw
  | erase | write | commit | lock | storeClear | passOver => rfl

theorem State.startHeld_starts (s : State) (c : Cmd) : s.Starts c (s.startHeld c) := by
  have h := s.carryOut_answers c
  generalize ha : s.carryOut c = a at h
  cases h with
  | refused cause data =>
    rw [show s.startHeld c = s.buildReply (some cause) data by simp only [State.startHeld, ha]]
    exact .refused cause data
  | @done t h data =>
    rw [show s.startHeld c = t.buildReply none data by simp only [State.startHeld, ha]]
    exact .done h data
  | @started t work h =>
    by_cases hw : work = .reset
    · subst hw
      rw [show s.startHeld c = (t.setInProgress c .reset).quiesceTest by simp only [State.startHeld, ha]]
      generalize hr : Work.reset = work at h
      cases h with
      | reset kind limit hlimit => exact .reset kind limit hlimit
      | clear => obtain hwork | hwork := s.clearReach_work 0 0 0 <;> rw [hwork] at hr <;> cases hr
      | erase | write | commit | lock => cases hr
    · rw [State.startHeld_going ha hw]
      exact .going h hw

/-- What the start of one command keeps, the test of the waiting list keeps (R167). -/
theorem State.startWaiting_keeps {P : State → Prop} {s : State}
    (hstart : ∀ s c rest, P s → s.mgmt.inProgress = none → s.mgmt.waiting = c :: rest → s.mgmt.replies.length < 2 →
      P ((s.hold c rest).startHeld c)) (hs : P s) : P s.startWaiting := by
  have key : ∀ n (s : State), P s → P (s.startUpTo n) := by
    intro n
    induction n with
    | zero => exact fun s hs => hs
    | succ n ih =>
      intro s hs
      unfold State.startUpTo
      split
      · next c rest hp hw =>
        split
        · next hr => exact ih _ (hstart s c rest hs hp hw hr)
        · exact hs
      · exact hs
      · exact hs
  exact key _ s hs

/-- What waiting and the start of a command keep, the arrival of a command keeps (R166). -/
theorem State.arrive_keeps {P : State → Prop} {s : State}
    (hwait : ∀ s w overrun, P s → P (s.setMgmt { s.mgmt with waiting := w, overrun := overrun }))
    (hstart : ∀ s c rest, P s → s.mgmt.inProgress = none → s.mgmt.waiting = c :: rest → s.mgmt.replies.length < 2 →
      P ((s.hold c rest).startHeld c)) (hs : P s) (c : Cmd) : P (s.arrive c) := by
  unfold State.arrive
  split
  · exact State.startWaiting_keeps hstart (hwait s (s.mgmt.waiting ++ [c]) s.mgmt.overrun hs)
  · exact hwait s s.mgmt.waiting true hs

/-! ### Frames that are judged (R156 to R158) -/

/-- What the judgment of a frame can come to. -/
inductive State.Hears (s : State) : State → Prop where
  | nothing : State.Hears s s
  | gesture (i : Slot) (g : Gesture) (h : s.quiesce.phase = .idle) : State.Hears s (s.gestureAt i g)
  | command (c : Cmd) : State.Hears s (s.arrive c)
  | hello (e : EngineId) (count : Nat) (h : 1 ≤ count ∧ count ≤ 24) : State.Hears s (s.helloEvent e count)
  | tailDone (v : VoiceId) (tag : Byte) : State.Hears s (s.tailDone v tag)
  | held (e : EngineId) (held : Bool) : State.Hears s (s.setHeld e held)
  | quiesceAck (e : EngineId) : State.Hears s (s.ackEvent e)

theorem judgeEngineFrame_hello {e e' : EngineId} {kind count : Nat} {frame : List Byte}
    (h : judgeEngineFrame e kind frame = some (.hello e' count)) : 1 ≤ count ∧ count ≤ 24 := by
  unfold judgeEngineFrame at h
  split at h
  · split at h
    · next hrange => cases h; exact ⟨hrange.2.1, hrange.2.2⟩
    · cases h
  · split at h
    · obtain ⟨_, _, h⟩ := Option.map_eq_some_iff.1 h; cases h
    · cases h
  · split at h <;> cases h
  · split at h <;> cases h
  · split at h <;> cases h
  · cases h

theorem judgeVoiceLink_hello {e : EngineId} {count : Nat} {frame : List Byte}
    (h : judgeVoiceLink frame = some (.hello e count)) : 1 ≤ count ∧ count ≤ 24 := by
  unfold judgeVoiceLink at h
  split at h
  · cases h
  · split at h
    · cases h
    · split at h
      · exact judgeEngineFrame_hello h
      · cases h

theorem State.judgeFrame_hears (s : State) (l : Link) (frame : List Byte) : s.Hears (s.judgeFrame l frame) := by
  cases l with
  | gesture =>
    unfold State.judgeFrame
    dsimp only
    split
    · next f _ =>
      cases f with
      | gesture i g =>
        unfold State.routeGestureLink
        dsimp only
        split
        · next h => exact .gesture i g h
        · exact .nothing
      | command c => exact .command c
    · exact .nothing
  | voice =>
    unfold State.judgeFrame
    dsimp only
    split
    · next f hf =>
      cases f with
      | hello e n => exact .hello e n (judgeVoiceLink_hello hf)
      | tailDone v tag => exact .tailDone v tag
      | hold e => exact .held e true
      | go e => exact .held e false
      | quiesceAck e => exact .quiesceAck e
    · exact .nothing

/-- What a quiet receiver and the judgment of a frame keep, a frame on a link keeps (R154). -/
theorem State.receive_keeps {P : State → Prop} {s : State} (hreceiver : ∀ s l r, P s → P (s.setReceiver l r))
    (hhears : ∀ s t, P s → s.Hears t → P t) (hs : P s) (l : Link) (frame : List Byte) : P (s.receive l frame) := by
  have hline : ∀ s, P s → P (s.lineIdle l) := fun s hs =>
    hhears _ _ (hreceiver s l .idle hs) (State.judgeFrame_hears _ l _)
  exact hline _ (hreceiver _ l _ (hline s hs))

/-! ### Events of the running part -/

/-- What an event at a performer's context can be. -/
inductive State.SectionEvent (s : State) (i : Slot) : State → Prop where
  | gesture (g : Gesture) (h : s.quiesce.phase = .idle) : State.SectionEvent s i (s.gestureAt i g)
  | settleExpiry : State.SectionEvent s i (s.settleExpiry i)
  | attackExpiry : State.SectionEvent s i (s.attackExpiry i)
  | guardExpiry : State.SectionEvent s i (s.guardExpiry i)
  | silenceExpiry : State.SectionEvent s i (s.silenceExpiry i)
  | phraseExpiry : State.SectionEvent s i (s.phraseExpiry i)
  | glideStep : State.SectionEvent s i (s.glideStep i)

theorem State.SectionEvent.path {s t : State} {i : Slot} (h : s.SectionEvent i t) : SectionPath i s t := by
  cases h with
  | gesture g _ => exact s.path_gestureAt i g
  | settleExpiry => exact s.path_settleExpiry i
  | attackExpiry => exact s.path_attackExpiry i
  | guardExpiry => exact s.path_guardExpiry i
  | silenceExpiry => exact s.path_silenceExpiry i
  | phraseExpiry => exact s.path_phraseExpiry i
  | glideStep => exact s.path_glideStep i

/-- What an event of the running part can be. -/
inductive State.Event (s : State) : State → Prop where
  | context {t : State} (i : Slot) (h : s.SectionEvent i t) : State.Event s t
  | tailExpiry (v : VoiceId) : State.Event s (s.tailExpiry v)
  | frame (l : Link) (bytes : List Byte) : State.Event s (s.receive l bytes)
  | bytes (l : Link) (bytes : List Byte) : State.Event s (s.bytesOn l bytes)
  | arrival (c : Cmd) : State.Event s (s.arrive c)
  | commandStart : State.Event s s.startWaiting
  | selection : State.Event s s.selection
  | transmitDone : State.Event s s.transmitDone
  | erasureDone : State.Event s s.erasureDone
  | writeDone : State.Event s s.writeDone
  | commitDone : State.Event s s.commitDone
  | lockDone : State.Event s s.lockDone
  | clearBlockDone : State.Event s s.clearBlockDone
  | limitExpiry : State.Event s s.limitExpiry

/-- What a command can come to: nothing, an event of the running part, a hard reset or loss of power, a start-up. -/
inductive State.Runs (s : State) : State → Prop where
  | nothing : State.Runs s s
  | event {t : State} (hp : s.power = .running) (h : s.Event t) : State.Runs s t
  | cleared (p : Power) (hp : p ≠ .running) : State.Runs s (s.cleared p)
  | startedUp (hp : s.power = .inReset) : State.Runs s s.startedUp
  | poweredUp (hp : s.power = .off) : State.Runs s (s.cleared .inReset).startedUp

theorem State.runs_whenRunning {s t : State} (h : s.Event t) : s.Runs (s.whenRunning t) := by
  unfold State.whenRunning
  split
  · next hp => exact .event hp h
  · exact .nothing
  · exact .nothing

theorem State.runs_consoleCommand (s : State) (code tag : Byte) (params : List Byte) :
    s.Runs (s.consoleCommand code tag params) := by
  unfold State.consoleCommand
  split
  · exact State.runs_whenRunning (.arrival _)
  · unfold State.whenRunning
    split <;> exact .nothing

theorem State.runs_hardReset (s : State) (cause : ResetCause) : s.Runs (s.hardReset cause) := by
  unfold State.hardReset
  split
  · exact .cleared .inReset (by decide)
  · split
    · exact .nothing
    · split
      · exact .cleared .inReset (by decide)
      · exact .cleared .inReset (by decide)
      · exact .nothing

theorem State.runs_startUp (s : State) : s.Runs s.startUp := by
  unfold State.startUp
  split
  · exact .nothing
  · next hp => exact .startedUp hp
  · next hp => exact .poweredUp hp

/-- Every command answers a next state, and that is one of the cases there are (R156, R158, R168; log entry 21). -/
theorem exec_runs (c : Instr) (s : State) : ∃ t, exec c s = .next t ∧ s.Runs t := by
  cases c with
  | gesture slot rest => exact ⟨_, rfl, State.runs_whenRunning (.frame .gesture _)⟩
  | settleExpiry i => exact ⟨_, rfl, State.runs_whenRunning (.context i .settleExpiry)⟩
  | attackExpiry i => exact ⟨_, rfl, State.runs_whenRunning (.context i .attackExpiry)⟩
  | guardExpiry i => exact ⟨_, rfl, State.runs_whenRunning (.context i .guardExpiry)⟩
  | silenceExpiry i => exact ⟨_, rfl, State.runs_whenRunning (.context i .silenceExpiry)⟩
  | phraseExpiry i => exact ⟨_, rfl, State.runs_whenRunning (.context i .phraseExpiry)⟩
  | glideStepExpiry i => exact ⟨_, rfl, State.runs_whenRunning (.context i .glideStep)⟩
  | tailTimerExpiry v => exact ⟨_, rfl, State.runs_whenRunning (.tailExpiry v)⟩
  | hello | tailDone | hold | go | quiesceAck => exact ⟨_, rfl, State.runs_whenRunning (.frame .voice _)⟩
  | selection => exact ⟨_, rfl, State.runs_whenRunning .selection⟩
  | transmitCompletion => exact ⟨_, rfl, State.runs_whenRunning .transmitDone⟩
  | command slot rest => exact ⟨_, rfl, State.runs_whenRunning (.frame .gesture _)⟩
  | commandStart => exact ⟨_, rfl, State.runs_whenRunning .commandStart⟩
  | performerSet | performerEnable | performerDisable | performerRead | bind | engineSet | engineRead | voiceRead
  | arbiterSet | arbiterRead | tableErase | tableWrite | tableCommit | tableVerify | tableBlankCheck | tableRead
  | tableLock | blockRead | storeClear | noticeMaskSet | reset => exact ⟨_, rfl, State.runs_consoleCommand s _ _ _⟩
  | erasureCompletion => exact ⟨_, rfl, State.runs_whenRunning .erasureDone⟩
  | writeCompletion => exact ⟨_, rfl, State.runs_whenRunning .writeDone⟩
  | commitCompletion => exact ⟨_, rfl, State.runs_whenRunning .commitDone⟩
  | lockCompletion => exact ⟨_, rfl, State.runs_whenRunning .lockDone⟩
  | storeClearBlockCompletion => exact ⟨_, rfl, State.runs_whenRunning .clearBlockDone⟩
  | limitExpiry => exact ⟨_, rfl, State.runs_whenRunning .limitExpiry⟩
  | hardReset cause => exact ⟨_, rfl, s.runs_hardReset cause⟩
  | powerLoss => exact ⟨_, rfl, .cleared .off (by decide)⟩
  | startUp => exact ⟨_, rfl, s.runs_startUp⟩
  | receiverFrameCut l bytes => exact ⟨_, rfl, State.runs_whenRunning (.bytes l bytes)⟩

theorem exec_runs_of_next {c : Instr} {s t : State} (h : exec c s = .next t) : s.Runs t := by
  obtain ⟨u, hu, hruns⟩ := exec_runs c s
  rw [h] at hu
  cases hu
  exact hruns

/-! ### Steps -/

/-- The state as a command finds it that a step takes: from the queue, or of the clock, which may have drawn a free value. -/
inductive State.Taken (s : State) : State → Prop where
  | fromQueue (q : List Instr) : State.Taken s { s with pending := q }
  | alone : State.Taken s s
  | drawn : State.Taken s s.countFree

/-- A step takes one command, or lets time go on in a running part with nothing due. -/
theorem step_cases {s t : State} (h : step s = .next t) :
    (∃ u, s.Taken u ∧ u.Runs t) ∨ (s.power = .running ∧ t = s.advance) := by
  unfold step at h
  split at h
  · exact .inl ⟨_, .fromQueue _, exec_runs_of_next h⟩
  · unfold idle at h
    split at h
    · next hp =>
      unfold State.clock at h
      split at h
      · cases h; exact .inr ⟨hp, rfl⟩
      · exact .inl ⟨_, .alone, exec_runs_of_next h⟩
      · unfold State.dueOne at h
        split at h
        · exact .inl ⟨_, .drawn, exec_runs_of_next h⟩
        · exact .inl ⟨_, .drawn, exec_runs_of_next h⟩
    · cases h; exact .inl ⟨_, .alone, .nothing⟩
    · cases h; exact .inl ⟨_, .alone, .nothing⟩

end Sys2Proof.Machine
end

section
/-! PROOFS. The Management Unit and the Restart Controller: what a command that starts leaves of them, and the laws of their
records over every step (R166 to R170, R173 to R176). -/

namespace Sys2Proof.Machine

/-! ### Sets of engines (R173) -/

namespace EngineSet

theorem has_insert (x : EngineSet) (e j : EngineId) : has (insert x e) j = (has x j || decide (j = e)) := by
  have hiff : (e.val = j.val) ↔ (j = e) := by rw [Fin.ext_iff, eq_comm]
  simp only [has, insert, BitVec.getLsbD_or, BitVec.getLsbD_twoPow, e.isLt, decide_true, Bool.true_and, hiff]

theorem has_erase (x : EngineSet) (e j : EngineId) : has (erase x e) j = (has x j && !decide (j = e)) := by
  have hiff : (e.val = j.val) ↔ (j = e) := by rw [Fin.ext_iff, eq_comm]
  simp only [has, erase, BitVec.getLsbD_and, BitVec.getLsbD_not, BitVec.getLsbD_twoPow, e.isLt, j.isLt, decide_true,
    Bool.true_and, hiff]

theorem ext_has {x y : EngineSet} (h : ∀ e, has x e = has y e) : x = y :=
  BitVec.eq_of_getLsbD_eq fun n hn => h ⟨n, hn⟩

/-- No engine of one set is outside another. -/
theorem subset_iff (x y : EngineSet) : x &&& ~~~y = 0 ↔ ∀ e, has x e = true → has y e = true := by
  have hand : ∀ e, has (x &&& ~~~y) e = (has x e && !has y e) := fun e => by
    simp only [has, BitVec.getLsbD_and, BitVec.getLsbD_not, e.isLt, decide_true, Bool.true_and]
  have hzero : ∀ e, has (0 : EngineSet) e = false := fun e => BitVec.getLsbD_zero
  constructor
  · intro h e hx
    have := hand e
    rw [h, hzero, hx] at this
    simpa using this.symm
  · intro h
    refine ext_has fun e => ?_
    rw [hand, hzero]
    cases hx : has x e with
    | false => rfl
    | true => rw [h e hx]; rfl

end EngineSet

/-! ### What commands leave (R167, R168) -/

theorem State.onlySection_bindAt (s : State) (i : Slot) (k : TableKind) (target : Option BlockId) (timing : BindTiming) :
    s.onlySection (s.bindAt i k target timing).1 := by
  cases timing with
  | now =>
    cases target with
    | some b => exact s.onlySection_setCtx i _
    | none =>
      unfold State.bindAt State.bindNone
      dsimp only
      split
      · exact (s.onlySection_setCtx i _).trans ((State.path_abandon _ i).trans (State.path_enterReady _ i)).onlySection
      · exact s.onlySection_setCtx i _
  | atRest =>
    unfold State.bindAt State.bindAtRest
    dsimp only
    split <;> exact s.onlySection_setCtx i _
  | atPhrase =>
    unfold State.bindAt State.bindAtPhrase
    dsimp only
    split
    · exact (s.onlySection_setCtx i _).trans (State.onlySection_setCtx _ i _)
    · exact s.onlySection_setCtx i _

/-- A command that takes no time leaves Table Memory, the quiesce record, the links and the clock alone, and of the Management Unit
all but its notices and their mask. -/
theorem State.Prompt.frame {s t : State} (h : s.Prompt t) :
    t = { s with
      contexts := t.contexts
      voices := t.voices
      engines := t.engines
      arbiter := t.arbiter
      mgmt := { s.mgmt with
        notices := t.mgmt.notices, noticesDropped := t.mgmt.noticesDropped, mask := t.mgmt.mask } } := by
  have ofSection {t : State} (h : s.onlySection t) : t = { s with
      contexts := t.contexts
      voices := t.voices
      engines := t.engines
      arbiter := t.arbiter
      mgmt := { s.mgmt with
        notices := t.mgmt.notices, noticesDropped := t.mgmt.noticesDropped, mask := t.mgmt.mask } } := by
    rw [h]
  cases h with
  | unchanged | settings | enable | tailLimit | arbiter | mask => rfl
  | disable i => exact ofSection (s.path_disable i).onlySection
  | bind i k target timing _ => exact ofSection (s.onlySection_bindAt i k target timing)

/-- The quiesce that a RESET begins, with what it changes (R175). -/
theorem State.quiesceBegin_frame (s : State) (kind : ResetKind) (limit : Nat) :
    let t := s.quiesceBegin kind limit
    t = { s with
      contexts := t.contexts
      voices := t.voices
      engines := t.engines
      quiesce := ⟨.quiescing, some kind, s.presentEngines, 0, 0, Timer.start (16 * limit)⟩
      mgmt := { s.mgmt with notices := t.mgmt.notices, noticesDropped := t.mgmt.noticesDropped } } := by
  have h := forEach_onlySection slots (fun i s => s.quiesceContext i)
    (s.setQuiesce { s.quiesce with phase := .quiescing, kind := some kind }) fun i t => (t.path_quiesceContext i).onlySection
  unfold State.quiesceBegin
  dsimp only
  generalize forEach slots (fun i s => s.quiesceContext i)
    (s.setQuiesce { s.quiesce with phase := .quiescing, kind := some kind }) = u at h ⊢
  rw [h]
  rfl

theorem State.beginStore_frame (s : State) (b : BlockId) (op : StoreOp) :
    let t := s.beginStore b op
    t = { s with blocks := t.blocks, storeTimer := t.storeTimer, freeCount := t.freeCount } := rfl

theorem State.clearReach_frame (s : State) (b : BlockId) (erased : Nat) (worn : BlockSet) :
    let t := (s.clearReach b erased worn).1
    t = { s with blocks := t.blocks, storeTimer := t.storeTimer, freeCount := t.freeCount } := by
  unfold State.clearReach
  dsimp only
  split <;> rfl

/-- A command that begins to work on Table Memory leaves everything else alone. -/
theorem State.Begins.frame {s t : State} {work : Work} (h : s.Begins t work) (hw : work ≠ .reset) :
    t = { s with blocks := t.blocks, storeTimer := t.storeTimer, freeCount := t.freeCount } := by
  cases h with
  | erase | write | commit | lock => rfl
  | clear => exact s.clearReach_frame 0 0 0
  | reset => exact absurd rfl hw

/-! ### The quiesce record and the RESET in progress (R173 to R176) -/

/-- The laws of the quiesce record beside the command in progress, but for the engine that has still to answer. -/
def Quiesce.sound (q : Quiesce) (resetting : Bool) : Prop :=
  match q.phase with
  | .idle => q = .idle ∧ resetting = false
  | .quiescing =>
    q.kind.isSome = true ∧ q.limit.isSome = true ∧ (∀ e, EngineSet.has q.sent e = true → EngineSet.has q.waited e = true) ∧
      (∀ e, EngineSet.has q.acknowledged e = true → EngineSet.has q.sent e = true) ∧ resetting = true

theorem State.restartWf_iff (s : State) :
    s.restartWf = true ↔ s.quiesce.sound s.mgmt.resetting ∧ s.quiesce.complete = false := by
  unfold State.restartWf Quiesce.wf Quiesce.sound Quiesce.complete
  cases hq : s.quiesce.phase with
  | idle => cases s.mgmt.resetting <;> simp
  | quiescing =>
    simp only [Bool.and_eq_true, beq_iff_eq, EngineSet.subset_iff, bne_iff_ne, ne_eq, beq_self_eq_true, Bool.true_and,
      beq_eq_false_iff_ne]
    tauto

theorem State.restartWf_congr {s t : State} (h : s.restartWf = true) (hq : t.quiesce = s.quiesce)
    (hp : t.mgmt.inProgress = s.mgmt.inProgress) : t.restartWf = true := by
  rw [State.restartWf, Management.resetting, hq, hp]
  exact h

/-- Without a RESET in progress the record is IDLE. -/
theorem State.restartWf.idle {s : State} (h : s.restartWf = true) (hp : s.mgmt.resetting = false) : s.quiesce = .idle := by
  obtain ⟨hsound, -⟩ := s.restartWf_iff.1 h
  unfold Quiesce.sound at hsound
  split at hsound
  · exact hsound.1
  · rw [hp] at hsound
    exact absurd hsound.2.2.2.2 (by decide)

theorem State.restartWf_of_idle {s : State} (hq : s.quiesce = .idle) (hp : s.mgmt.resetting = false) : s.restartWf = true := by
  rw [State.restartWf, hq, hp]
  rfl

/-- While a quiesce is in progress, its RESET is the command in progress. -/
theorem State.restartWf.resetting {s : State} (h : s.restartWf = true) (hq : s.quiesce.phase = .quiescing) :
    s.mgmt.resetting = true := by
  obtain ⟨hsound, -⟩ := s.restartWf_iff.1 h
  unfold Quiesce.sound at hsound
  rw [hq] at hsound
  exact hsound.2.2.2.2

theorem Management.resetting_of_none {m : Management} (h : m.inProgress = none) : m.resetting = false := by
  unfold Management.resetting
  rw [h]

theorem Management.resetting_iff (m : Management) : m.resetting = true ↔ ∃ c, m.inProgress = some ⟨c, .reset⟩ := by
  unfold Management.resetting
  split
  · next c h => simp [h]
  · next h => exact iff_of_false (by decide) fun ⟨c, hc⟩ => h c hc

theorem Management.resetting_of_work {m : Management} {c : Cmd} {work : Work} (h : m.inProgress = some ⟨c, work⟩)
    (hw : work ≠ .reset) : m.resetting = false := by
  rw [← Bool.not_eq_true, Management.resetting_iff]
  rintro ⟨c', hc'⟩
  rw [h] at hc'
  cases hc'
  exact hw rfl

/-- The test of the quiesce leaves its record lawful (R176, R177). -/
theorem State.restartWf_quiesceTest {s : State} (h : s.quiesce.sound s.mgmt.resetting) : s.quiesceTest.restartWf = true := by
  unfold State.quiesceTest
  split
  · exact State.restartWf_of_idle rfl rfl
  · next hc => exact s.restartWf_iff.2 ⟨h, Bool.eq_false_iff.2 hc⟩

/-- The record right after the quiesce has begun: some engine may have to answer or none. -/
theorem Quiesce.sound_begun (kind : ResetKind) (waited : EngineSet) (limit : Nat) :
    (⟨.quiescing, some kind, waited, 0, 0, Timer.start limit⟩ : Quiesce).sound true :=
  ⟨rfl, rfl, fun e h => absurd h (by simp [EngineSet.has]), fun e h => h, rfl⟩

theorem State.restartWf_startHeld {s : State} {c : Cmd} (hs : s.restartWf = true) (hp : s.mgmt.inProgress = none) :
    (s.startHeld c).restartWf = true := by
  have hidle := State.restartWf.idle hs (Management.resetting_of_none hp)
  have h := s.startHeld_starts c
  generalize s.startHeld c = u at h ⊢
  cases h with
  | refused cause data => exact State.restartWf_of_idle hidle rfl
  | done h data => exact State.restartWf_of_idle (by rw [h.frame]; exact hidle) rfl
  | going h hw =>
    refine State.restartWf_of_idle ?_ (Management.resetting_of_work rfl hw)
    rw [h.frame hw]
    exact hidle
  | reset kind limit _ =>
    refine State.restartWf_quiesceTest ?_
    rw [State.quiesceBegin_frame]
    exact Quiesce.sound_begun kind _ _

theorem State.restartWf_startWaiting {s : State} (hs : s.restartWf = true) : s.startWaiting.restartWf = true :=
  State.startWaiting_keeps (P := fun s => s.restartWf = true)
    (fun _ _ _ hs hp _ _ => State.restartWf_startHeld (State.restartWf_congr hs rfl rfl) hp) hs

theorem State.restartWf_arrive {s : State} (hs : s.restartWf = true) (c : Cmd) : (s.arrive c).restartWf = true :=
  State.arrive_keeps (P := fun s => s.restartWf = true) (fun _ _ _ hs => State.restartWf_congr hs rfl rfl)
    (fun _ _ _ hs hp _ _ => State.restartWf_startHeld (State.restartWf_congr hs rfl rfl) hp) hs c

theorem State.restartWf_afterQuiesceEvent {s : State} (h : s.quiesce.sound s.mgmt.resetting) :
    s.afterQuiesceEvent.restartWf = true := by
  unfold State.afterQuiesceEvent
  split
  · exact State.restartWf_startWaiting (State.restartWf_quiesceTest h)
  · next hc => exact s.restartWf_iff.2 ⟨h, Bool.eq_false_iff.2 hc⟩

theorem Quiesce.sound_rejoined {q : Quiesce} {resetting : Bool} (h : q.sound resetting) (e : EngineId) :
    (q.rejoined e).sound resetting := by
  unfold Quiesce.rejoined
  split
  · next hq =>
    unfold Quiesce.sound at h ⊢
    simp only [hq] at h ⊢
    obtain ⟨hkind, hlimit, hsent, hack, hreset⟩ := h
    simp only [EngineSet.has_erase, Bool.and_eq_true]
    exact ⟨hkind, hlimit, fun x hx => ⟨hsent x hx.1, hx.2⟩, fun x hx => ⟨hack x hx.1, hx.2⟩, hreset⟩
  · exact h

theorem Quiesce.sound_answered {q : Quiesce} {resetting : Bool} (h : q.sound resetting) (e : EngineId) :
    (q.answered e).sound resetting := by
  unfold Quiesce.answered
  split
  · next hc =>
    unfold Quiesce.sound at h ⊢
    simp only [hc.1] at h ⊢
    obtain ⟨hkind, hlimit, hsent, hack, hreset⟩ := h
    refine ⟨hkind, hlimit, hsent, fun x hx => ?_, hreset⟩
    rw [EngineSet.has_insert, Bool.or_eq_true, decide_eq_true_eq] at hx
    obtain hx | rfl := hx
    · exact hack x hx
    · exact hc.2.2.1
  · exact h

theorem Quiesce.sound_quiesceSent {q : Quiesce} {resetting : Bool} (h : q.sound resetting) (e : EngineId) :
    (q.quiesceSent e).sound resetting := by
  unfold Quiesce.quiesceSent
  split
  · next hc =>
    unfold Quiesce.sound at h ⊢
    simp only [hc.1] at h ⊢
    obtain ⟨hkind, hlimit, hsent, hack, hreset⟩ := h
    refine ⟨hkind, hlimit, fun x hx => ?_, fun x hx => ?_, hreset⟩
    · rw [EngineSet.has_insert, Bool.or_eq_true, decide_eq_true_eq] at hx
      obtain hx | rfl := hx
      · exact hsent x hx
      · exact hc.2
    · rw [EngineSet.has_insert, hack x hx, Bool.true_or]
  · exact h

/-- Sending an engine its QUIESCE answers nothing (R176). -/
theorem Quiesce.complete_quiesceSent (q : Quiesce) (e : EngineId) : (q.quiesceSent e).complete = q.complete := by
  unfold Quiesce.quiesceSent
  split <;> rfl

/-! ### What a selection can be (R105, R115) -/

/-- What a selection can come to: nothing is taken, or an eligible item of one of the classes. -/
inductive State.Selects (s : State) : State → Prop where
  | nothing : State.Selects s s
  | struck (v : VoiceId) (a : Arbiter) (h : (s.voice v).owesStart = true) :
      State.Selects s { s.setVoice v (s.voice v).struck with arbiter := a }
  | endSent (v : VoiceId) (a : Arbiter) (h : (s.voice v).pending = some .ending) :
      State.Selects s
        { s.setVoice v ((s.voice v).endSent (s.engine (engineOf v)).tailLimit) with arbiter := a }
  | updateSent (v : VoiceId) (x : UpdateFlag) (a : Arbiter) (h : (s.voice v).state = .sounding) :
      State.Selects s { s.setVoice v ((s.voice v).updateSent x) with arbiter := a }
  | broadcast (a : Arbiter) : State.Selects s { s with broadcastHush := false, arbiter := a }
  | hush (e : EngineId) (a : Arbiter) :
      State.Selects s { s.setEngine e { s.engine e with pendingControl := none } with arbiter := a }
  | quiesce (e : EngineId) (a : Arbiter) :
      State.Selects s (State.afterQuiesceEvent
        { s.setEngine e { s.engine e with pendingControl := none } with
          quiesce := s.quiesce.quiesceSent e, arbiter := a })
  | reply (e : ReplyEntry) (rest : List ReplyEntry) (a : Arbiter) (h : s.mgmt.replies = e :: rest)
      (he : e.result.isSome = true) :
      State.Selects s (State.startWaiting { s with mgmt := { s.mgmt with replies := rest }, arbiter := a })
  | notice (n : Notice) (rest : List Notice) (a : Arbiter) (h : s.mgmt.notices = n :: rest) :
      State.Selects s { s with mgmt := { s.mgmt with notices := rest, noticesDropped := false }, arbiter := a }

/-- What is chosen is what its class would serve (R110, R111). -/
theorem State.choice_nextItem {s : State} {ch : Choice} (h : s.choice = some ch) : s.nextItem ch.cls = some ch.item := by
  unfold State.choice at h
  split at h
  · next c hc =>
    cases h
    unfold State.expressChoice at hc
    obtain ⟨c, -, hc⟩ := Option.bind_eq_some_iff.1 hc
    obtain ⟨item, hitem, rfl⟩ := Option.map_eq_some_iff.1 hc
    exact hitem
  · obtain ⟨b, -, hb⟩ := List.exists_of_findSome?_eq_some h
    exact (s.bandChoice_some b ch hb).1

/-- The effects of taking an item and the arbiter with its frame in flight. -/
theorem State.take_eq (s : State) (ch : Choice) :
    ∃ a, s.take ch = (s.takeItem ch.cls ch.item).2.setArbiter a := ⟨_, rfl⟩

/-- In a voice class the item is an eligible record, which then owes what the class serves. -/
theorem State.nextItem_voiceClass {s : State} {c : ServiceClass} {item : Item}
    (h : (s.nextVoice c).map Item.voice = some item) : ∃ v, item = .voice v ∧ s.owes c v := by
  obtain ⟨v, hv, rfl⟩ := Option.map_eq_some_iff.1 h
  exact ⟨v, rfl, (s.nextVoice_some c v hv).1⟩

theorem Voice.owesStart_iff (r : Voice) :
    r.owesStart = true ↔ ∃ p q, r.pending = some (.start p q) ∨ r.pending = some (.retake p q) := by
  unfold Voice.owesStart
  split <;> simp_all

theorem State.selection_selects (s : State) : s.Selects s.selection := by
  cases hidle : s.arbiter.transmitter with
  | some f =>
    have : s.selection = s := by simp only [State.selection, State.selectable, hidle]
    rw [this]
    exact .nothing
  | none =>
    cases hchoice : s.choice with
    | none =>
      have : s.selection = s := by simp only [State.selection, State.selectable, hidle, hchoice]
      rw [this]
      exact .nothing
    | some ch =>
      rw [s.selection_eq ch hidle hchoice]
      obtain ⟨a, ha⟩ := s.take_eq ch
      have hitem := State.choice_nextItem hchoice
      rw [ha]
      generalize ch.cls = c at hitem ⊢
      generalize ch.item = item at hitem ⊢
      cases c with
      | start =>
        obtain ⟨v, rfl, -, -, p, q, hv | hv⟩ := State.nextItem_voiceClass hitem
        all_goals
          simp only [State.takeItem, State.takeVoice, hv]
          exact .struck v a ((Voice.owesStart_iff _).2 ⟨p, q, by simp [hv]⟩)
      | ending =>
        obtain ⟨v, rfl, -, hv⟩ := State.nextItem_voiceClass hitem
        exact .endSent v a hv
      | pitch =>
        obtain ⟨v, rfl, -, hv, -⟩ := State.nextItem_voiceClass hitem
        exact .updateSent v .pitch a hv
      | level =>
        obtain ⟨v, rfl, -, hv, -⟩ := State.nextItem_voiceClass hitem
        exact .updateSent v .level a hv
      | timbre =>
        obtain ⟨v, rfl, -, hv, -⟩ := State.nextItem_voiceClass hitem
        exact .updateSent v .timbre a hv
      | control =>
        change s.nextControl = some item at hitem
        unfold State.nextControl at hitem
        split at hitem
        · cases hitem
          exact .broadcast a
        · obtain ⟨e, -, he⟩ := List.exists_of_findSome?_eq_some hitem
          obtain ⟨f, -, rfl⟩ := Option.map_eq_some_iff.1 he
          cases f with
          | quiesce => exact .quiesce e a
          | hush => exact .hush e a
      | reply =>
        change (if s.mgmt.replyReady = true then some Item.reply else none) = some item at hitem
        split at hitem
        · next hready =>
          cases hitem
          obtain ⟨⟨tag, code, result⟩, rest, hreplies, hresult⟩ := s.mgmt.replyReady_iff.1 hready
          cases result with
          | none => exact absurd rfl hresult
          | some r =>
            simp only [State.takeItem, State.takeReply, hreplies]
            exact .reply _ rest a hreplies rfl
        · cases hitem
      | notice =>
        change (if s.mgmt.notices.isEmpty = true then none else some Item.notice) = some item at hitem
        split at hitem
        · cases hitem
        · next hne =>
          cases hitem
          obtain ⟨n, rest, hnotices⟩ := List.exists_cons_of_ne_nil (by simpa using hne)
          simp only [State.takeItem, State.takeNotice, hnotices]
          exact .notice n rest a hnotices

/-! ### The laws of the quiesce record over every step -/

theorem State.restartWf_hears {s t : State} (hs : s.restartWf = true) (h : s.Hears t) : t.restartWf = true := by
  have hsound := (s.restartWf_iff.1 hs).1
  cases h with
  | nothing => exact hs
  | gesture i g _ =>
    have hsection := (s.path_gestureAt i g).onlySection
    exact State.restartWf_congr hs (by rw [hsection]) (by rw [hsection])
  | command c => exact State.restartWf_arrive hs c
  | hello e count _ =>
    refine State.restartWf_afterQuiesceEvent ?_
    have hmgmt : (s.hello e count).mgmt.resetting = s.mgmt.resetting := by
      simp only [Management.resetting, State.hello]
      rw [State.onlySection_offer]
      rfl
    rw [State.setQuiesce_mgmt, hmgmt]
    exact Quiesce.sound_rejoined hsound e
  | tailDone v tag =>
    unfold State.tailDone
    split <;> exact hs
  | held e held =>
    unfold State.setHeld
    split <;> exact hs
  | quiesceAck e => exact State.restartWf_afterQuiesceEvent (Quiesce.sound_answered hsound e)

theorem State.restartWf_tailExpiry {s : State} (hs : s.restartWf = true) (v : VoiceId) : (s.tailExpiry v).restartWf = true := by
  unfold State.tailExpiry
  split
  · split
    · exact State.restartWf_congr hs (by rw [State.onlySection_offer]; rfl) (by rw [State.onlySection_offer]; rfl)
    all_goals exact hs
  · exact hs

theorem State.restartWf_selects {s t : State} (hs : s.restartWf = true) (h : s.Selects t) : t.restartWf = true := by
  cases h with
  | nothing | struck | endSent | updateSent | broadcast | hush | notice => exact State.restartWf_congr hs rfl rfl
  | quiesce e a =>
    exact State.restartWf_afterQuiesceEvent (Quiesce.sound_quiesceSent (s.restartWf_iff.1 hs).1 e)
  | reply => exact State.restartWf_startWaiting (State.restartWf_congr hs rfl rfl)

/-- The completion of a command that is no RESET. -/
theorem State.restartWf_complete {s : State} {c : Cmd} {work : Work} (hs : s.restartWf = true)
    (hp : s.mgmt.inProgress = some ⟨c, work⟩) (hw : work ≠ .reset) (b : BlockId) (f : Block → Block)
    (data : Block → List Byte) : (s.complete b f data).restartWf = true := by
  have hidle := State.restartWf.idle hs (Management.resetting_of_work hp hw)
  exact State.restartWf_startWaiting (State.restartWf_of_idle hidle rfl)

/-- STORE CLEAR goes on to the next block. -/
theorem State.clearNext_reach (s : State) (c : Cmd) {b : BlockId} (erased : Nat) (worn : BlockSet) (h : b.val + 1 < 24) :
    s.clearNext c b erased worn = (s.clearReach ⟨b.val + 1, h⟩ erased worn).1.setInProgress c
      (s.clearReach ⟨b.val + 1, h⟩ erased worn).2 := by
  rw [State.clearNext, dif_pos h]

/-- STORE CLEAR answers after block 23. -/
theorem State.clearNext_last (s : State) (c : Cmd) {b : BlockId} (erased : Nat) (worn : BlockSet) (h : ¬ b.val + 1 < 24) :
    s.clearNext c b erased worn = (s.buildReply none (clearData erased worn)).startWaiting := by
  rw [State.clearNext, dif_neg h]

theorem State.clearReach_work_ne (s : State) (b : BlockId) (erased : Nat) (worn : BlockSet) :
    (s.clearReach b erased worn).2 ≠ .reset := by
  obtain h | h := s.clearReach_work b erased worn <;> rw [h] <;> exact Work.noConfusion

theorem State.restartWf_clearNext {s : State} {c : Cmd} (hq : s.quiesce = .idle) (b : BlockId) (erased : Nat)
    (worn : BlockSet) : (s.clearNext c b erased worn).restartWf = true := by
  by_cases h : b.val + 1 < 24
  · rw [s.clearNext_reach c erased worn h]
    refine State.restartWf_of_idle ?_ (Management.resetting_of_work rfl (s.clearReach_work_ne _ erased worn))
    rw [State.clearReach_frame]
    exact hq
  · rw [s.clearNext_last c erased worn h]
    exact State.restartWf_startWaiting (State.restartWf_of_idle hq rfl)

theorem State.restartWf_limitExpiry {s : State} (hs : s.restartWf = true) : s.limitExpiry.restartWf = true := by
  unfold State.limitExpiry
  split
  · next hrun =>
    refine State.restartWf_startWaiting ?_
    unfold State.limitExpired
    split
    · exact State.restartWf_of_idle rfl rfl
    · next hq =>
      have hsound := (s.restartWf_iff.1 hs).1
      simp only [Quiesce.sound, hq] at hsound
      rw [hsound.1] at hrun
      exact absurd hrun (by decide)
  · exact hs

theorem State.restartWf_event {s t : State} (hs : s.restartWf = true) (h : s.Event t) : t.restartWf = true := by
  cases h with
  | context i h => exact State.restartWf_congr hs (by rw [h.path.onlySection]) (by rw [h.path.onlySection])
  | tailExpiry v => exact State.restartWf_tailExpiry hs v
  | frame l bytes =>
    exact State.receive_keeps (P := fun s => s.restartWf = true)
      (fun _ l _ hs => State.restartWf_congr hs (by cases l <;> rfl) (by cases l <;> rfl))
      (fun _ _ => State.restartWf_hears) hs l bytes
  | bytes l bytes => exact State.restartWf_congr hs (by cases l <;> rfl) (by cases l <;> rfl)
  | arrival c => exact State.restartWf_arrive hs c
  | commandStart => exact State.restartWf_startWaiting hs
  | selection => exact State.restartWf_selects hs s.selection_selects
  | transmitDone => exact hs
  | erasureDone =>
    unfold State.erasureDone
    split
    · next hp => exact State.restartWf_complete hs hp Work.noConfusion _ _ _
    · exact hs
  | writeDone =>
    unfold State.writeDone
    split
    · next hp => exact State.restartWf_complete hs hp Work.noConfusion _ _ _
    · exact hs
  | commitDone =>
    unfold State.commitDone
    split
    · next hp => exact State.restartWf_complete hs hp Work.noConfusion _ _ _
    · exact hs
  | lockDone =>
    unfold State.lockDone
    split
    · next hp => exact State.restartWf_complete hs hp Work.noConfusion _ _ _
    · exact hs
  | clearBlockDone =>
    unfold State.clearBlockDone
    split
    · next hp =>
      have hidle := State.restartWf.idle hs (Management.resetting_of_work hp Work.noConfusion)
      refine State.restartWf_clearNext ?_ _ _ _
      exact hidle
    · next hp =>
      have hidle := State.restartWf.idle hs (Management.resetting_of_work hp Work.noConfusion)
      refine State.restartWf_clearNext ?_ _ _ _
      exact hidle
    · exact hs
  | limitExpiry => exact State.restartWf_limitExpiry hs

/-- A start-up leaves the Management Unit but for its notices, and the quiesce record. -/
theorem State.startedUp_frame (s : State) :
    let t := s.startedUp
    t = { s with
      timebase := 0
      broadcastHush := true
      power := .running
      blocks := t.blocks
      mgmt := { s.mgmt with notices := t.mgmt.notices, noticesDropped := t.mgmt.noticesDropped } } := by
  unfold State.startedUp
  dsimp only
  split
  · rfl
  · rw [State.onlySection_offer]
    rfl

theorem State.restartWf_runs {s t : State} (hs : s.restartWf = true) (h : s.Runs t) : t.restartWf = true := by
  cases h with
  | nothing => exact hs
  | event _ h => exact State.restartWf_event hs h
  | cleared => exact State.restartWf_of_idle rfl rfl
  | startedUp _ => exact State.restartWf_congr hs (by rw [State.startedUp_frame]) (by rw [State.startedUp_frame])
  | poweredUp _ =>
    exact State.restartWf_of_idle (by rw [State.startedUp_frame]; rfl)
      (Management.resetting_of_none (by rw [State.startedUp_frame]; rfl))

theorem State.Taken.frame {s u : State} (h : s.Taken u) :
    u = { s with pending := u.pending, freeCount := u.freeCount } := by cases h <;> rfl

/-- Time that goes on changes timers, timebase and the frame in flight (R3, R4, R160). -/
theorem State.advance_frame (s : State) :
    let t := s.advance
    t.engines = s.engines ∧ t.broadcastHush = s.broadcastHush ∧ t.blocks = s.blocks ∧ t.mgmt = s.mgmt ∧
      t.power = s.power ∧ (t.quiesce = s.quiesce ∨ t.quiesce = { s.quiesce with limit := s.quiesce.limit.tick }) ∧
      (∀ i, t.ctx i = s.ctx i ∨ t.ctx i = { s.ctx i with timers := (s.ctx i).timers.tick }) ∧
      ∀ v, t.voice v = s.voice v ∨ t.voice v = { s.voice v with tailTimer := (s.voice v).tailTimer.tick } := by
  unfold State.advance
  dsimp only
  split
  · refine ⟨rfl, rfl, rfl, rfl, rfl, .inr rfl, fun i => .inr ?_, fun v => .inr ?_⟩
    · exact State.ctx_mapContexts (s.setArbiter _) (fun _ c => { c with timers := c.timers.tick }) i
    · exact State.voice_mapVoices ((s.setArbiter _).mapContexts fun _ c => { c with timers := c.timers.tick })
        (fun _ r => { r with tailTimer := r.tailTimer.tick }) v
  · exact ⟨rfl, rfl, rfl, rfl, rfl, .inl rfl, fun _ => .inl rfl, fun _ => .inl rfl⟩

theorem Timer.isSome_tick (t : Timer) : t.tick.isSome = t.isSome := by cases t <;> rfl

theorem State.restartWf_advance {s : State} (hs : s.restartWf = true) : s.advance.restartWf = true := by
  obtain ⟨-, -, -, hmgmt, -, hquiesce | hquiesce, -⟩ := s.advance_frame
  · exact State.restartWf_congr hs hquiesce (by rw [hmgmt])
  · obtain ⟨hsound, hcomplete⟩ := s.restartWf_iff.1 hs
    rw [State.restartWf_iff, hquiesce, hmgmt]
    refine ⟨?_, hcomplete⟩
    unfold Quiesce.sound at hsound ⊢
    dsimp only
    split
    · next hq =>
      rw [hq] at hsound
      rw [hsound.1]
      exact ⟨rfl, hsound.2⟩
    · next hq =>
      rw [hq] at hsound
      rw [Timer.isSome_tick]
      exact hsound

/-- Settles O5: each event keeps the record's laws, and those that may complete a quiesce test whether it is complete. -/
theorem restartLawsKept : Obligations.RestartLawsKept := by
  unfold Obligations.RestartLawsKept
  intro s t hs h
  obtain ⟨u, htaken, hruns⟩ | ⟨-, rfl⟩ := step_cases h
  · exact State.restartWf_runs (State.restartWf_congr hs (by rw [htaken.frame]) (by rw [htaken.frame])) hruns
  · exact State.restartWf_advance hs

end Sys2Proof.Machine
end

section
/-! PROOFS. The laws of the Management Unit's queues over every step (R166, R167, R169, R170). -/

namespace Sys2Proof.Machine

/-! ### Entries of the reply queue (R169) -/

theorem ReplyEntry.all_built_iff (es : List ReplyEntry) :
    (es.all fun e => e.result.isSome) = true ↔ ∀ e ∈ es, e.result ≠ none := by
  simp only [List.all_eq_true, Option.isSome_iff_ne_none]

/-- The entries are those that go with the command in progress: it has the newest one, held, and every other one is built. -/
theorem Management.entriesOk_iff (m : Management) :
    m.entriesOk = true ↔
      (m.inProgress = none → ∀ e ∈ m.replies, e.result ≠ none) ∧
        ∀ p, m.inProgress = some p → ∃ earlier, m.replies = earlier ++ [⟨p.cmd.tag, p.cmd.code, none⟩] ∧
          ∀ e ∈ earlier, e.result ≠ none := by
  unfold Management.entriesOk
  cases m.inProgress with
  | none => simp [Option.isSome_iff_ne_none]
  | some p =>
    simp only [reduceCtorEq, IsEmpty.forall_iff, true_and, Option.some.injEq, forall_eq']
    rcases List.eq_nil_or_concat m.replies with h | ⟨es, e, h⟩
    · simp [h]
    · simp only [h, List.concat_eq_append, List.reverse_append, List.reverse_singleton, List.singleton_append,
        Bool.and_eq_true, beq_iff_eq, List.all_reverse, ReplyEntry.all_built_iff]
      constructor
      · rintro ⟨rfl, hes⟩
        exact ⟨es, rfl, hes⟩
      · rintro ⟨earlier, heq, hearlier⟩
        obtain ⟨rfl, hlast⟩ := List.append_inj' heq rfl
        exact ⟨by simpa using hlast, hearlier⟩

/-- Every entry but the newest is built. -/
def Management.newestHeld (m : Management) : Prop :=
  (∀ e ∈ m.replies, e.result ≠ none) ∨
    ∃ earlier tag code, m.replies = earlier ++ [⟨tag, code, none⟩] ∧ ∀ e ∈ earlier, e.result ≠ none

theorem Management.newestHeld_of_entriesOk {m : Management} (h : m.entriesOk = true) : m.newestHeld := by
  obtain ⟨hnone, hsome⟩ := m.entriesOk_iff.1 h
  cases hp : m.inProgress with
  | none => exact .inl (hnone hp)
  | some p =>
    obtain ⟨earlier, hreplies, hbuilt⟩ := hsome p hp
    exact .inr ⟨earlier, _, _, hreplies, hbuilt⟩

theorem buildHeld_built (r : Built) (es : List ReplyEntry) (h : ∀ e ∈ es, e.result ≠ none) : buildHeld r es = es := by
  induction es with
  | nil => rfl
  | cons e es ih =>
    obtain ⟨he, hes⟩ := List.forall_mem_cons.1 h
    rw [buildHeld, if_neg (by simpa using he), ih hes]

/-- Building leaves every entry built, and no fewer of them. -/
theorem Management.newestHeld.buildHeld {m : Management} (h : m.newestHeld) (r : Built) :
    (∀ e ∈ buildHeld r m.replies, e.result ≠ none) ∧ (buildHeld r m.replies).length = m.replies.length := by
  obtain hbuilt | ⟨earlier, tag, code, hreplies, hbuilt⟩ := h
  · rw [buildHeld_built r _ hbuilt]
    exact ⟨hbuilt, rfl⟩
  · rw [hreplies, buildHeld_newest r tag code earlier hbuilt]
    refine ⟨fun e he => ?_, by simp⟩
    obtain he | he := List.mem_append.1 he
    · exact hbuilt e he
    · rw [List.mem_singleton.1 he]
      exact Option.some_ne_none _

/-! ### Capacities (R166, R167, R170) -/

/-- The three queues are within their capacities. -/
def Management.fits (m : Management) : Prop := m.waiting.length ≤ 2 ∧ m.replies.length ≤ 2 ∧ m.notices.length ≤ 8

/-- The head waiting command could not start: a command is in progress, no entry is free, or none waits (R167). -/
def Management.settled (m : Management) : Prop := m.inProgress ≠ none ∨ m.replies.length = 2 ∨ m.waiting = []

theorem Management.wf_iff (m : Management) : m.wf = true ↔ m.fits ∧ m.entriesOk = true ∧ m.settled := by
  simp only [Management.wf, Bool.and_eq_true, Bool.or_eq_true, decide_eq_true_eq, Management.fits, Management.settled,
    beq_iff_eq, List.isEmpty_iff, Option.isSome_iff_ne_none, and_assoc, or_assoc]

/-- A change of notices, mask and flags keeps the laws while the notices fit. -/
theorem Management.wf_congr {m n : Management} (h : m.wf = true) (hp : n.inProgress = m.inProgress)
    (hw : n.waiting = m.waiting) (hr : n.replies = m.replies) (hn : n.notices.length ≤ 8) : n.wf = true := by
  obtain ⟨⟨h1, h2, -⟩, hentries, hsettled⟩ := m.wf_iff.1 h
  rw [Management.wf_iff, Management.fits, Management.entriesOk, Management.settled, hp, hw, hr]
  exact ⟨⟨h1, h2, hn⟩, hentries, hsettled⟩

theorem Management.notices_fit {m : Management} (h : m.wf = true) : m.notices.length ≤ 8 := (m.wf_iff.1 h).1.2.2

/-- Building the reply of the command in progress, if there is one (R167, R169). -/
theorem State.buildReply_laws {s : State} (cause : Option Cause) (data : List Byte) (hfits : s.mgmt.fits)
    (hheld : s.mgmt.newestHeld) :
    (s.buildReply cause data).mgmt.fits ∧ (s.buildReply cause data).mgmt.entriesOk = true := by
  obtain ⟨hbuilt, hlength⟩ := hheld.buildHeld ⟨cause, s.mgmt.overrun, data⟩
  refine ⟨⟨hfits.1, hlength.trans_le hfits.2.1, hfits.2.2⟩, (Management.entriesOk_iff _).2 ⟨fun _ => hbuilt, fun p hp => ?_⟩⟩
  cases hp

/-! ### Notices offered by commands (R170) -/

theorem forEach_keeps {α : Type} {P : State → Prop} (l : List α) (f : α → State → State)
    (hf : ∀ a t, P t → P (f a t)) {s : State} (hs : P s) : P (forEach l f s) := by
  induction l generalizing s with
  | nil => exact hs
  | cons a l ih => exact ih (hf a s hs)

theorem State.notices_bindAt {s : State} (h : s.mgmt.notices.length ≤ 8) (i : Slot) (k : TableKind)
    (target : Option BlockId) (timing : BindTiming) : (s.bindAt i k target timing).1.mgmt.notices.length ≤ 8 := by
  cases timing with
  | now =>
    cases target with
    | some b => exact h
    | none =>
      unfold State.bindAt State.bindNone
      dsimp only
      split
      · exact ((State.path_abandon _ i).trans (State.path_enterReady _ i)).notices_length h
      · exact h
  | atRest =>
    unfold State.bindAt State.bindAtRest
    dsimp only
    split <;> exact h
  | atPhrase =>
    unfold State.bindAt State.bindAtPhrase
    dsimp only
    split <;> exact h

theorem State.Prompt.notices {s t : State} (h : s.Prompt t) (hs : s.mgmt.notices.length ≤ 8) :
    t.mgmt.notices.length ≤ 8 := by
  cases h with
  | unchanged => exact hs
  | settings i pairs _ => rwa [State.setCtx_mgmt]
  | enable i => rwa [State.setCtx_mgmt]
  | tailLimit e limit _ => rwa [State.setEngine_mgmt]
  | arbiter express m => rwa [State.setArbiter_mgmt]
  | mask m => rwa [State.setMgmt_mgmt]
  | disable i => exact (s.path_disable i).notices_length hs
  | bind i k target timing _ => exact State.notices_bindAt hs i k target timing

theorem State.demand_mgmt (s : State) (x : EngineSet) (f : Control) : (s.demand x f).mgmt = s.mgmt := rfl

/-- At the contexts a quiesce begins as the operations there do. -/
theorem State.mgmt_quiesceBegin (s : State) (kind : ResetKind) (limit : Nat) :
    (s.quiesceBegin kind limit).mgmt = (forEach slots (fun i s => s.quiesceContext i)
      (s.setQuiesce { s.quiesce with phase := .quiescing, kind := some kind })).mgmt := by
  unfold State.quiesceBegin
  dsimp only
  rw [State.setQuiesce_mgmt, State.demand_mgmt]

theorem State.notices_quiesceBegin {s : State} (h : s.mgmt.notices.length ≤ 8) (kind : ResetKind) (limit : Nat) :
    (s.quiesceBegin kind limit).mgmt.notices.length ≤ 8 := by
  rw [State.mgmt_quiesceBegin]
  refine forEach_keeps (P := fun t => t.mgmt.notices.length ≤ 8) slots _
    (fun i t ht => (t.path_quiesceContext i).notices_length ht) ?_
  rwa [State.setQuiesce_mgmt]

theorem State.fullEffects_mgmt (s : State) : s.fullEffects.mgmt = { s.mgmt with mask := Management.initial.mask } := by
  unfold State.fullEffects
  dsimp only
  rw [State.setMgmt_mgmt, State.setArbiter_mgmt, State.mapEngines_mgmt, State.mapVoices_mgmt, State.mapContexts_mgmt]

theorem State.sectionEffects_mgmt (s : State) : s.sectionEffects.mgmt =
    (forEach slots (fun i s => s.applyAll i .atRest) (s.mapContexts fun _ c => c.afterSection)).mgmt := by
  unfold State.sectionEffects
  dsimp only
  rw [State.mapVoices_mgmt]

/-- The effects of a RESET leave the queues of commands and replies, and the notices within their capacity (R172, R178). -/
theorem State.resetEffects_mgmt (s : State) :
    s.resetEffects.mgmt.inProgress = s.mgmt.inProgress ∧ s.resetEffects.mgmt.waiting = s.mgmt.waiting ∧
      s.resetEffects.mgmt.replies = s.mgmt.replies ∧
      (s.mgmt.notices.length ≤ 8 → s.resetEffects.mgmt.notices.length ≤ 8) := by
  unfold State.resetEffects
  split
  · have hsection := forEach_onlySection slots (fun i s => s.applyAll i .atRest) (s.mapContexts fun _ c => c.afterSection)
      fun i t => t.onlySection_applyAll i .atRest
    have hnotices := forEach_keeps (P := fun t => t.mgmt.notices.length ≤ 8) slots (fun i s => s.applyAll i .atRest)
      (fun i t ht => (t.path_applyAll i .atRest).notices_length ht) (s := s.mapContexts fun _ c => c.afterSection)
    have hmgmt := congrArg State.mgmt hsection
    rw [State.sectionEffects_mgmt]
    refine ⟨by rw [hmgmt]; rfl, by rw [hmgmt]; rfl, by rw [hmgmt]; rfl, fun h => hnotices ?_⟩
    rwa [State.mapContexts_mgmt]
  · rw [State.fullEffects_mgmt]
    exact ⟨rfl, rfl, rfl, id⟩
  · exact ⟨rfl, rfl, rfl, id⟩

/-- The end of a quiesce, if it ends, builds the reply (R177, R178). -/
theorem State.quiesceEnd_laws {s : State} (forced : Bool) (hushed : EngineSet) (hfits : s.mgmt.fits)
    (hheld : s.mgmt.newestHeld) :
    (s.quiesceEnd forced hushed).mgmt.fits ∧ (s.quiesceEnd forced hushed).mgmt.entriesOk = true := by
  obtain ⟨-, hwaiting, hreplies, hnotices⟩ := (s.demand hushed .hush).resetEffects_mgmt
  have hwaiting : (s.demand hushed .hush).resetEffects.mgmt.waiting = s.mgmt.waiting := hwaiting
  have hreplies : (s.demand hushed .hush).resetEffects.mgmt.replies = s.mgmt.replies := hreplies
  unfold State.quiesceEnd
  refine State.buildReply_laws none _ ?_ ?_
  · simp only [Management.fits, State.setQuiesce_mgmt, hwaiting, hreplies]
    exact ⟨hfits.1, hfits.2.1, hnotices hfits.2.2⟩
  · simp only [Management.newestHeld, State.setQuiesce_mgmt, hreplies]
    exact hheld

theorem State.quiesceTest_laws {s : State} (hfits : s.mgmt.fits) (hentries : s.mgmt.entriesOk = true) :
    s.quiesceTest.mgmt.fits ∧ s.quiesceTest.mgmt.entriesOk = true := by
  unfold State.quiesceTest
  split
  · exact State.quiesceEnd_laws false 0 hfits (Management.newestHeld_of_entriesOk hentries)
  · exact ⟨hfits, hentries⟩

/-! ### Commands that start (R167) -/

/-- A command in progress has the newest entry. -/
theorem Management.entriesOk_inProgress {m : Management} {c : Cmd} {work : Work} {earlier : List ReplyEntry}
    (hp : m.inProgress = some ⟨c, work⟩) (hr : m.replies = earlier ++ [⟨c.tag, c.code, none⟩])
    (he : ∀ e ∈ earlier, e.result ≠ none) : m.entriesOk = true := by
  refine m.entriesOk_iff.2 ⟨fun h => ?_, fun p h => ?_⟩
  · rw [hp] at h
    cases h
  · rw [hp] at h
    cases h
    exact ⟨earlier, hr, he⟩

/-- The start of a command whose entry is held. -/
theorem State.startHeld_laws {s : State} {c : Cmd} {earlier : List ReplyEntry} (hfits : s.mgmt.fits)
    (hr : s.mgmt.replies = earlier ++ [⟨c.tag, c.code, none⟩]) (he : ∀ e ∈ earlier, e.result ≠ none) :
    (s.startHeld c).mgmt.fits ∧ (s.startHeld c).mgmt.entriesOk = true := by
  have hheld : s.mgmt.newestHeld := .inr ⟨earlier, _, _, hr, he⟩
  have h := s.startHeld_starts c
  generalize s.startHeld c = u at h ⊢
  cases h with
  | refused cause data => exact State.buildReply_laws _ _ hfits hheld
  | @done t h data =>
    have hmgmt := congrArg State.mgmt h.frame
    refine State.buildReply_laws none data ⟨?_, ?_, h.notices hfits.2.2⟩ ?_
    · rw [hmgmt]; exact hfits.1
    · rw [hmgmt]; exact hfits.2.1
    · rw [hmgmt]; exact hheld
  | @going t work h hw =>
    have hmgmt : t.mgmt = s.mgmt := by rw [h.frame hw]
    refine ⟨?_, Management.entriesOk_inProgress rfl (earlier := earlier) ?_ he⟩
    · simp only [Management.fits, State.setInProgress, State.setMgmt_mgmt, hmgmt]
      exact hfits
    · simp only [State.setInProgress, State.setMgmt_mgmt, hmgmt]
      exact hr
  | reset kind limit _ =>
    have hmgmt : (s.quiesceBegin kind limit).mgmt.waiting = s.mgmt.waiting ∧
        (s.quiesceBegin kind limit).mgmt.replies = s.mgmt.replies := by
      rw [s.quiesceBegin_frame kind limit]
      exact ⟨rfl, rfl⟩
    have hnotices := State.notices_quiesceBegin hfits.2.2 kind limit
    generalize s.quiesceBegin kind limit = t at hmgmt hnotices ⊢
    obtain ⟨hwaiting, hreplies⟩ := hmgmt
    refine State.quiesceTest_laws ⟨?_, ?_, ?_⟩ (Management.entriesOk_inProgress rfl (earlier := earlier) ?_ he) <;>
      simp only [State.setInProgress, State.setMgmt_mgmt]
    · rw [hwaiting]
      exact hfits.1
    · rw [hreplies]
      exact hfits.2.1
    · exact hnotices
    · rw [hreplies, hr]

/-- After the test of the waiting list no command waits that could start. -/
theorem State.startWaiting_wf {s : State} (hfits : s.mgmt.fits) (hentries : s.mgmt.entriesOk = true) :
    s.startWaiting.mgmt.wf = true := by
  have key : ∀ n (s : State), s.mgmt.fits → s.mgmt.entriesOk = true → s.mgmt.waiting.length ≤ n →
      (s.startUpTo n).mgmt.wf = true := by
    intro n
    induction n with
    | zero =>
      intro s hfits hentries hlength
      exact (Management.wf_iff _).2 ⟨hfits, hentries, .inr (.inr (List.eq_nil_of_length_eq_zero (Nat.le_zero.1 hlength)))⟩
    | succ n ih =>
      intro s hfits hentries hlength
      unfold State.startUpTo
      split
      · next c rest hp hw =>
        split
        · next hroom =>
          rw [hw, List.length_cons] at hlength
          have hfits' : (s.hold c rest).mgmt.fits := by
            refine ⟨?_, ?_, hfits.2.2⟩
            · have := hfits.1
              rw [hw, List.length_cons] at this
              exact Nat.le_of_succ_le this
            · simpa [State.hold] using hroom
          obtain ⟨hfits'', hentries''⟩ := State.startHeld_laws (s := s.hold c rest) (c := c) hfits' rfl
            ((s.mgmt.entriesOk_iff.1 hentries).1 hp)
          refine ih _ hfits'' hentries'' ?_
          rw [(State.startHeld_keeps _ c).1]
          exact Nat.le_of_succ_le_succ hlength
        · next hfull =>
          have := hfits.2.1
          exact (Management.wf_iff _).2 ⟨hfits, hentries, .inr (.inl (by omega))⟩
      · next hw => exact (Management.wf_iff _).2 ⟨hfits, hentries, .inr (.inr hw)⟩
      · next p hp => exact (Management.wf_iff _).2 ⟨hfits, hentries, .inl (by rw [hp]; exact Option.some_ne_none p)⟩
  exact key _ s hfits hentries le_rfl

theorem State.mgmtWf_startWaiting {s : State} (h : s.mgmt.wf = true) : s.startWaiting.mgmt.wf = true :=
  State.startWaiting_wf (s.mgmt.wf_iff.1 h).1 (s.mgmt.wf_iff.1 h).2.1

theorem State.mgmtWf_arrive {s : State} (h : s.mgmt.wf = true) (c : Cmd) : (s.arrive c).mgmt.wf = true := by
  unfold State.arrive
  split
  · next hroom =>
    obtain ⟨⟨-, h2, h3⟩, hentries, -⟩ := s.mgmt.wf_iff.1 h
    exact State.startWaiting_wf ⟨by simpa using hroom, h2, h3⟩ hentries
  · exact Management.wf_congr h rfl rfl rfl (Management.notices_fit h)

theorem State.mgmtWf_afterQuiesceEvent {s : State} (h : s.mgmt.wf = true) : s.afterQuiesceEvent.mgmt.wf = true := by
  unfold State.afterQuiesceEvent
  split
  · obtain ⟨hfits, hentries, -⟩ := s.mgmt.wf_iff.1 h
    obtain ⟨hfits', hentries'⟩ := State.quiesceTest_laws hfits hentries
    exact State.startWaiting_wf hfits' hentries'
  · exact h

/-- An answer to the command in progress, and the test of the waiting list. -/
theorem State.mgmtWf_buildReply_startWaiting {s : State} (h : s.mgmt.wf = true) (cause : Option Cause) (data : List Byte) :
    (s.buildReply cause data).startWaiting.mgmt.wf = true := by
  obtain ⟨hfits, hentries, -⟩ := s.mgmt.wf_iff.1 h
  obtain ⟨hfits', hentries'⟩ := State.buildReply_laws cause data hfits (Management.newestHeld_of_entriesOk hentries)
  exact State.startWaiting_wf hfits' hentries'

/-! ### Events -/

theorem State.mgmtWf_path {s t : State} {i : Slot} (hs : s.mgmt.wf = true) (h : SectionPath i s t) : t.mgmt.wf = true := by
  have hmgmt := congrArg State.mgmt h.onlySection
  exact Management.wf_congr hs (by rw [hmgmt]) (by rw [hmgmt]) (by rw [hmgmt])
    (h.notices_length (Management.notices_fit hs))

theorem State.mgmtWf_offer {s : State} (hs : s.mgmt.wf = true) (n : Notice) : (s.offer n).mgmt.wf = true :=
  State.mgmtWf_path (i := 0) hs (SectionPath.refl.offer n)

theorem State.mgmtWf_hears {s t : State} (hs : s.mgmt.wf = true) (h : s.Hears t) : t.mgmt.wf = true := by
  cases h with
  | nothing => exact hs
  | gesture i g _ => exact State.mgmtWf_path hs (s.path_gestureAt i g)
  | command c => exact State.mgmtWf_arrive hs c
  | hello e count _ => exact State.mgmtWf_afterQuiesceEvent (State.mgmtWf_offer hs _)
  | tailDone v tag =>
    unfold State.tailDone
    split <;> exact hs
  | held e held =>
    unfold State.setHeld
    split <;> exact hs
  | quiesceAck e => exact State.mgmtWf_afterQuiesceEvent hs

/-- The head of a reply queue whose head is built has been taken. -/
theorem Management.entriesOk_tail {m : Management} {e : ReplyEntry} {rest : List ReplyEntry} (h : m.entriesOk = true)
    (hr : m.replies = e :: rest) (he : e.result.isSome = true) :
    Management.entriesOk { m with replies := rest } = true := by
  obtain ⟨hnone, hsome⟩ := m.entriesOk_iff.1 h
  refine (Management.entriesOk_iff _).2 ⟨fun hp x hx => hnone hp x (by rw [hr]; exact List.mem_cons_of_mem e hx),
    fun p hp => ?_⟩
  obtain ⟨earlier, hreplies, hbuilt⟩ := hsome p hp
  rw [hr] at hreplies
  cases earlier with
  | nil =>
    cases hreplies
    exact Bool.noConfusion he
  | cons x xs =>
    obtain ⟨rfl, hrest⟩ := List.cons.inj hreplies
    exact ⟨xs, hrest, fun y hy => hbuilt y (List.mem_cons_of_mem _ hy)⟩

theorem State.mgmtWf_selects {s t : State} (hs : s.mgmt.wf = true) (h : s.Selects t) : t.mgmt.wf = true := by
  cases h with
  | nothing | struck | endSent | updateSent | broadcast | hush => exact hs
  | quiesce e a => exact State.mgmtWf_afterQuiesceEvent hs
  | reply e rest a hr he =>
    obtain ⟨⟨h1, h2, h3⟩, hentries, -⟩ := s.mgmt.wf_iff.1 hs
    rw [hr, List.length_cons] at h2
    exact State.startWaiting_wf ⟨h1, Nat.le_of_succ_le h2, h3⟩ (Management.entriesOk_tail hentries hr he)
  | notice n rest a hn =>
    have h8 := Management.notices_fit hs
    rw [hn, List.length_cons] at h8
    exact Management.wf_congr hs rfl rfl rfl (Nat.le_of_succ_le h8)

/-- A command that goes on with another work keeps its entry. -/
theorem Management.wf_setWork {m : Management} {c : Cmd} {work : Work} (h : m.wf = true)
    (hp : m.inProgress = some ⟨c, work⟩) (work' : Work) :
    Management.wf { m with inProgress := some ⟨c, work'⟩ } = true := by
  obtain ⟨hfits, hentries, -⟩ := m.wf_iff.1 h
  obtain ⟨earlier, hreplies, hbuilt⟩ := (m.entriesOk_iff.1 hentries).2 _ hp
  exact (Management.wf_iff _).2 ⟨hfits, Management.entriesOk_inProgress rfl hreplies hbuilt, .inl (Option.some_ne_none _)⟩

theorem State.mgmtWf_clearNext {s : State} {c : Cmd} {work : Work} (hs : s.mgmt.wf = true)
    (hp : s.mgmt.inProgress = some ⟨c, work⟩) (b : BlockId) (erased : Nat) (worn : BlockSet) :
    (s.clearNext c b erased worn).mgmt.wf = true := by
  by_cases h : b.val + 1 < 24
  · rw [s.clearNext_reach c erased worn h, State.setInProgress, State.setMgmt_mgmt, State.clearReach_mgmt]
    exact Management.wf_setWork hs hp _
  · rw [s.clearNext_last c erased worn h]
    exact State.mgmtWf_buildReply_startWaiting hs _ _

theorem State.mgmtWf_limitExpiry {s : State} (hs : s.mgmt.wf = true) : s.limitExpiry.mgmt.wf = true := by
  unfold State.limitExpiry
  split
  · unfold State.limitExpired
    split
    · obtain ⟨hfits, hentries, -⟩ := s.mgmt.wf_iff.1 hs
      obtain ⟨hfits', hentries'⟩ := State.quiesceEnd_laws true s.quiesce.unacknowledged hfits
        (Management.newestHeld_of_entriesOk hentries)
      exact State.startWaiting_wf hfits' hentries'
    · exact State.mgmtWf_startWaiting hs
  · exact hs

theorem State.mgmtWf_tailExpiry {s : State} (hs : s.mgmt.wf = true) (v : VoiceId) : (s.tailExpiry v).mgmt.wf = true := by
  unfold State.tailExpiry
  split
  · split
    · exact State.mgmtWf_offer hs _
    all_goals exact hs
  · exact hs

theorem State.mgmtWf_complete {s : State} (hs : s.mgmt.wf = true) (b : BlockId) (f : Block → Block)
    (data : Block → List Byte) : (s.complete b f data).mgmt.wf = true :=
  State.mgmtWf_buildReply_startWaiting (s := (s.updBlock b f).storeDone) hs none _

theorem State.mgmtWf_event {s t : State} (hs : s.mgmt.wf = true) (h : s.Event t) : t.mgmt.wf = true := by
  cases h with
  | context i h => exact State.mgmtWf_path hs h.path
  | tailExpiry v => exact State.mgmtWf_tailExpiry hs v
  | frame l bytes =>
    refine State.receive_keeps (P := fun s => s.mgmt.wf = true) (fun s l r hs => ?_)
      (fun _ _ => State.mgmtWf_hears) hs l bytes
    rwa [State.setReceiver_mgmt]
  | bytes l bytes =>
    unfold State.bytesOn
    rwa [State.setReceiver_mgmt]
  | arrival c => exact State.mgmtWf_arrive hs c
  | commandStart => exact State.mgmtWf_startWaiting hs
  | selection => exact State.mgmtWf_selects hs s.selection_selects
  | transmitDone =>
    unfold State.transmitDone
    rwa [State.setArbiter_mgmt]
  | erasureDone =>
    unfold State.erasureDone
    split
    · exact State.mgmtWf_complete hs _ _ _
    · exact hs
  | writeDone =>
    unfold State.writeDone
    split
    · exact State.mgmtWf_complete hs _ _ _
    · exact hs
  | commitDone =>
    unfold State.commitDone
    split
    · exact State.mgmtWf_complete hs _ _ _
    · exact hs
  | lockDone =>
    unfold State.lockDone
    split
    · exact State.mgmtWf_complete hs _ _ _
    · exact hs
  | clearBlockDone =>
    unfold State.clearBlockDone
    split
    · next b _ _ hp =>
      have hkeep : (s.updBlock b Block.erased).storeDone.mgmt = s.mgmt := rfl
      exact State.mgmtWf_clearNext (by rwa [hkeep]) (hkeep ▸ hp) _ _ _
    · next hp =>
      have hkeep : s.storeDone.mgmt = s.mgmt := rfl
      exact State.mgmtWf_clearNext (by rwa [hkeep]) (hkeep ▸ hp) _ _ _
    · exact hs
  | limitExpiry => exact State.mgmtWf_limitExpiry hs

theorem State.mgmtWf_startedUp {s : State} (hs : s.mgmt.wf = true) : s.startedUp.mgmt.wf = true := by
  unfold State.startedUp
  dsimp only
  split
  · exact hs
  · refine State.mgmtWf_offer ?_ _
    exact hs

theorem State.mgmtWf_cleared (s : State) (p : Power) : (s.cleared p).mgmt.wf = true := by
  have h : (s.cleared p).mgmt = Management.initial := rfl
  rw [h]
  rfl

theorem State.mgmtWf_runs {s t : State} (hs : s.mgmt.wf = true) (h : s.Runs t) : t.mgmt.wf = true := by
  cases h with
  | nothing => exact hs
  | event _ h => exact State.mgmtWf_event hs h
  | cleared p _ => exact s.mgmtWf_cleared p
  | startedUp _ => exact State.mgmtWf_startedUp hs
  | poweredUp _ => exact State.mgmtWf_startedUp (s.mgmtWf_cleared .inReset)

/-- Settles O4: every event keeps the queues' laws, and those that free an entry or end a command test the waiting list. -/
theorem managementLawsKept : Obligations.ManagementLawsKept := by
  unfold Obligations.ManagementLawsKept
  intro s t hs h
  obtain ⟨u, htaken, hruns⟩ | ⟨-, rfl⟩ := step_cases h
  · exact State.mgmtWf_runs (by rw [htaken.frame]; exact hs) hruns
  · obtain ⟨-, -, -, hmgmt, -⟩ := s.advance_frame
    rw [hmgmt]
    exact hs

end Sys2Proof.Machine
end

section
/-! PROOFS. A law of the contexts, voices and engines, whatever it says, is kept by every step when it is kept by the few moves
that touch them: what those moves are is said once here, for the laws of the pool, of the contexts and of the voice lists. -/

namespace Sys2Proof.Machine

/-! ### Moves of one record -/

/-- What a frame taken, a tail that ends or a stopped timer leaves of a voice record (R91, R94, R95). -/
inductive Voice.Serves (r : Voice) : Voice → Prop where
  | struck (h : r.owesStart = true) : Voice.Serves r r.struck
  | endSent (limit : Nat) (h : r.pending = some .ending) : Voice.Serves r (r.endSent limit)
  | updateSent (x : UpdateFlag) (h : r.state = .sounding) : Voice.Serves r (r.updateSent x)
  | tailOver (h : r.state = .releasing) (howes : r.pending = none ∨ r.tailTimer.isSome = true) : Voice.Serves r r.tailOver
  | timerStopped (h : r.state ≠ .releasing) : Voice.Serves r { r with tailTimer := none }

/-- What a HOLD, a GO or a control frame leaves of an engine record (R98, R115). -/
inductive Engine.Turns (e : Engine) : Engine → Prop where
  | held (held : Bool) (h : e.present = true) : Engine.Turns e { e with held := held }
  | control (f : Option Control) : Engine.Turns e { e with pendingControl := f }

/-- A law that looks at contexts, voices, engines and whether a quiesce is in progress, and that every move of those keeps. -/
structure SectionLaw (P : State → Prop) : Prop where
  frame {s t : State} : P s → t.contexts = s.contexts → t.voices = s.voices → t.engines = s.engines →
    t.quiesce.phase = s.quiesce.phase → P t
  event {s t : State} {i : Slot} : s.SectionEvent i t → P s → P t
  voice {s : State} {v : VoiceId} {r : Voice} : (s.voice v).Serves r → P s → P (s.setVoice v r)
  engine {s : State} {e : EngineId} {r : Engine} : (s.engine e).Turns r → P s → P (s.setEngine e r)
  hello {s : State} {count : Nat} (e : EngineId) : 1 ≤ count ∧ count ≤ 24 → P s → P (s.hello e count)
  prompt {s t : State} : s.Prompt t → P s → P t
  begun {s : State} (kind : ResetKind) (limit : Nat) : P s → P (s.quiesceBegin kind limit)
  ended {s t : State} {kind : ResetKind} {hushed : EngineSet} : s.resetBy t kind hushed → P s → P t
  hushed {s : State} (x : EngineSet) : P s → P ((s.demand x .hush).setQuiesce .idle)
  advance {s : State} : P s → P s.advance
  cleared (s : State) (p : Power) : P (s.cleared p)

namespace SectionLaw

variable {P : State → Prop} (law : SectionLaw P)
include law

/-! ### The Management Unit and the end of a quiesce -/

theorem buildReply {s : State} (h : P s) (cause : Option Cause) (data : List Byte) : P (s.buildReply cause data) :=
  law.frame h rfl rfl rfl rfl

theorem setMgmt {s : State} (h : P s) (m : Management) : P (s.setMgmt m) := law.frame h rfl rfl rfl rfl

theorem quiesceEnd {s : State} (h : P s) (forced : Bool) (x : EngineSet) : P (s.quiesceEnd forced x) := by
  unfold State.quiesceEnd
  refine law.buildReply ?_ _ _
  cases hkind : s.quiesce.kind with
  | some kind => exact law.ended (s.resetEffects_resetBy kind x hkind) h
  | none =>
    have : (s.demand x .hush).resetEffects = s.demand x .hush := by
      have hkind' : (s.demand x .hush).quiesce.kind = none := hkind
      simp only [State.resetEffects, hkind']
    rw [this]
    exact law.hushed x h

theorem quiesceTest {s : State} (h : P s) : P s.quiesceTest := by
  unfold State.quiesceTest
  split
  · exact law.quiesceEnd h false 0
  · exact h

theorem startHeld {s : State} (h : P s) (c : Cmd) : P (s.startHeld c) := by
  have hstarts := s.startHeld_starts c
  generalize s.startHeld c = u at hstarts ⊢
  cases hstarts with
  | refused cause data => exact law.buildReply h _ _
  | done hprompt data => exact law.buildReply (law.prompt hprompt h) _ _
  | going hbegins hw =>
    refine law.setMgmt ?_ _
    rw [hbegins.frame hw]
    exact law.frame h rfl rfl rfl rfl
  | reset kind limit _ => exact law.quiesceTest (law.setMgmt (law.begun kind limit h) _)

theorem startWaiting {s : State} (h : P s) : P s.startWaiting :=
  State.startWaiting_keeps (P := P) (fun _ c _ h _ _ _ => law.startHeld (law.setMgmt h _) c) h

theorem arrive {s : State} (h : P s) (c : Cmd) : P (s.arrive c) :=
  State.arrive_keeps (P := P) (fun _ _ _ h => law.setMgmt h _)
    (fun _ c _ h _ _ _ => law.startHeld (law.setMgmt h _) c) h c

theorem afterQuiesceEvent {s : State} (h : P s) : P s.afterQuiesceEvent := by
  unfold State.afterQuiesceEvent
  split
  · exact law.startWaiting (law.quiesceTest h)
  · exact h

theorem limitExpiry {s : State} (h : P s) : P s.limitExpiry := by
  unfold State.limitExpiry
  split
  · refine law.startWaiting ?_
    unfold State.limitExpired
    split
    · exact law.quiesceEnd h true _
    · exact law.frame h rfl rfl rfl rfl
  · exact h

theorem complete {s : State} (h : P s) (b : BlockId) (f : Block → Block) (data : Block → List Byte) :
    P (s.complete b f data) := by
  unfold State.complete
  exact law.startWaiting (law.frame h rfl rfl rfl rfl)

theorem clearNext {s : State} (h : P s) (c : Cmd) (b : BlockId) (erased : Nat) (worn : BlockSet) :
    P (s.clearNext c b erased worn) := by
  by_cases hb : b.val + 1 < 24
  · rw [s.clearNext_reach c erased worn hb]
    refine law.setMgmt ?_ _
    rw [State.clearReach_frame]
    exact law.frame h rfl rfl rfl rfl
  · rw [s.clearNext_last c erased worn hb]
    exact law.startWaiting (law.buildReply h _ _)

/-! ### Frames, tails and selections -/

theorem hears {s t : State} (h : P s) (hhears : s.Hears t) : P t := by
  cases hhears with
  | nothing => exact h
  | gesture i g hidle => exact law.event (.gesture g hidle) h
  | command c => exact law.arrive h c
  | hello e count hcount =>
    refine law.afterQuiesceEvent (law.frame (law.hello e hcount h) rfl rfl rfl ?_)
    simp only [State.setQuiesce_quiesce, Quiesce.rejoined]
    split <;> simp_all
  | tailDone v tag =>
    unfold State.tailDone
    split
    · next hv => exact law.voice (.tailOver hv.2.1 (.inl hv.2.2)) h
    · exact h
  | held e held =>
    unfold State.setHeld
    split
    · next he => exact law.engine (.held held he) h
    · exact h
  | quiesceAck e =>
    refine law.afterQuiesceEvent (law.frame h rfl rfl rfl ?_)
    simp only [State.setQuiesce_quiesce, Quiesce.answered]
    split <;> rfl

theorem tailExpiry {s : State} (h : P s) (v : VoiceId) : P (s.tailExpiry v) := by
  unfold State.tailExpiry
  split
  · next hrun =>
    split
    · next hv => exact law.frame (law.voice (.tailOver hv (.inr hrun)) h) rfl rfl rfl rfl
    all_goals
      next hv => exact law.voice (.timerStopped (by rw [hv]; decide)) h
  · exact h

theorem selects {s t : State} (h : P s) (hselects : s.Selects t) : P t := by
  cases hselects with
  | nothing => exact h
  | struck v a hv => exact law.frame (law.voice (.struck hv) h) rfl rfl rfl rfl
  | endSent v a hv => exact law.frame (law.voice (.endSent _ hv) h) rfl rfl rfl rfl
  | updateSent v x a hv => exact law.frame (law.voice (.updateSent x hv) h) rfl rfl rfl rfl
  | broadcast a => exact law.frame h rfl rfl rfl rfl
  | hush e a => exact law.frame (law.engine (.control none) h) rfl rfl rfl rfl
  | quiesce e a =>
    refine law.afterQuiesceEvent (law.frame (law.engine (e := e) (.control none) h) rfl rfl rfl ?_)
    simp only [State.setEngine_quiesce, Quiesce.quiesceSent]
    split <;> rfl
  | reply => exact law.startWaiting (law.frame h rfl rfl rfl rfl)
  | notice => exact law.frame h rfl rfl rfl rfl

/-! ### Steps -/

theorem ofEvent {s t : State} (h : P s) (hevent : s.Event t) : P t := by
  cases hevent with
  | context i hsection => exact law.event hsection h
  | tailExpiry v => exact law.tailExpiry h v
  | frame l bytes =>
    exact State.receive_keeps (P := P) (fun s l r h => law.frame h (State.setReceiver_contexts s l r)
      (State.setReceiver_voices s l r) (State.setReceiver_engines s l r) (by rw [State.setReceiver_quiesce])) (fun _ _ => law.hears) h l bytes
  | bytes l bytes =>
    unfold State.bytesOn
    exact law.frame h (State.setReceiver_contexts s l _) (State.setReceiver_voices s l _)
      (State.setReceiver_engines s l _) (by rw [State.setReceiver_quiesce])
  | arrival c => exact law.arrive h c
  | commandStart => exact law.startWaiting h
  | selection => exact law.selects h s.selection_selects
  | transmitDone => exact law.frame h rfl rfl rfl rfl
  | erasureDone =>
    unfold State.erasureDone
    split
    · exact law.complete h _ _ _
    · exact h
  | writeDone =>
    unfold State.writeDone
    split
    · exact law.complete h _ _ _
    · exact h
  | commitDone =>
    unfold State.commitDone
    split
    · exact law.complete h _ _ _
    · exact h
  | lockDone =>
    unfold State.lockDone
    split
    · exact law.complete h _ _ _
    · exact h
  | clearBlockDone =>
    unfold State.clearBlockDone
    split
    · refine law.clearNext ?_ _ _ _ _
      exact law.frame h rfl rfl rfl rfl
    · refine law.clearNext ?_ _ _ _ _
      exact law.frame h rfl rfl rfl rfl
    · exact h
  | limitExpiry => exact law.limitExpiry h

theorem startedUp {s : State} (h : P s) : P s.startedUp := by
  rw [State.startedUp_frame]
  exact law.frame h rfl rfl rfl rfl

theorem runs {s t : State} (h : P s) (hruns : s.Runs t) : P t := by
  cases hruns with
  | nothing => exact h
  | event _ hevent => exact law.ofEvent h hevent
  | cleared p _ => exact law.cleared s p
  | startedUp _ => exact law.startedUp h
  | poweredUp _ => exact law.startedUp (law.cleared s .inReset)

/-- Every step keeps the law. -/
theorem ofStep {s t : State} (h : P s) (hstep : step s = .next t) : P t := by
  obtain ⟨u, htaken, hruns⟩ | ⟨-, rfl⟩ := step_cases hstep
  · refine law.runs ?_ hruns
    rw [htaken.frame]
    exact law.frame h rfl rfl rfl rfl
  · exact law.advance h

end SectionLaw

end Sys2Proof.Machine
end

section
/-! PROOFS. The laws of the Voice Pool over every step: the table of the voice states and the ranges of the engine records
(R80, R98, R99). -/

namespace Sys2Proof.Machine

/-! ### The table of the voice states, state by state -/

namespace Voice

variable (r : Voice)

theorem wf_resting (h : r.state = .disabled ∨ r.state = .free) :
    r.wf = true ↔ r.unowned = true ∧ r.pending = none ∧ r.tailTimer = none := by
  unfold wf
  obtain h | h := h <;> simp only [h, Bool.and_eq_true, Option.isNone_iff_eq_none, and_assoc]

theorem wf_sounding (h : r.state = .sounding) :
    r.wf = true ↔ (r.owner.isSome = true ∧ r.layer.isSome = true ∧ r.copy.isSome = true) ∧ r.pending ≠ some .ending ∧
      r.tailTimer = none := by
  unfold wf
  simp only [h, Bool.and_eq_true, Option.isNone_iff_eq_none, bne_iff_ne, and_assoc]

theorem wf_releasing (h : r.state = .releasing) :
    r.wf = true ↔ r.unowned = true ∧
      ((r.pending = none ∧ r.tailTimer.isSome = true) ∨ (r.pending = some .ending ∧ r.tailTimer = none)) := by
  unfold wf
  simp only [h, Bool.and_eq_true, Bool.or_eq_true, Option.isNone_iff_eq_none, beq_iff_eq, and_assoc]
  rcases r.pending with _ | _ | _ | _ <;> cases r.tailTimer <;> simp

theorem unowned_letGo : r.letGo.unowned = true := rfl

/-- A change of a record that keeps it in its table and does not make or unmake it DISABLED. -/
def keepsTable (r' : Voice) : Prop := (r.wf = true → r'.wf = true) ∧ (r'.state = .disabled ↔ r.state = .disabled)

variable {r}

/-- The table keeps a record whose state and owner parts are unchanged, when its pending command and tail timer obey it. -/
theorem keepsTable_of_sounding {r' : Voice} (h : r'.state = .sounding) (hr : r.state ≠ .disabled)
    (howner : r'.owner.isSome = true ∧ r'.layer.isSome = true ∧ r'.copy.isSome = true) (hpending : r'.pending ≠ some .ending)
    (htimer : r'.tailTimer = none) : r.keepsTable r' :=
  ⟨fun _ => (r'.wf_sounding h).2 ⟨howner, hpending, htimer⟩, by rw [h]; exact iff_of_false (by decide) hr⟩

theorem keepsTable_refl : r.keepsTable r := ⟨id, Iff.rfl⟩

theorem restruck_ne_ending (pending : Option Discrete) (program velocity : Nat) :
    restruck pending program velocity ≠ some .ending := by
  unfold restruck
  split <;> exact fun h => by cases h

/-- A record that is let go as FREE has nothing left (R80). -/
theorem keepsTable_free {r' : Voice} (h : r'.state = .free) (hr : r.state ≠ .disabled) (howner : r'.unowned = true)
    (hpending : r'.pending = none) (htimer : r'.tailTimer = none) : r.keepsTable r' :=
  ⟨fun _ => (r'.wf_resting (.inr h)).2 ⟨howner, hpending, htimer⟩, by rw [h]; exact iff_of_false (by decide) hr⟩

theorem keepsTable_ended (now : Stamp) : r.keepsTable (r.ended now) := by
  unfold ended
  split
  · next hs =>
    have hne : r.state ≠ .disabled := by rw [hs]; decide
    refine ⟨fun h => ?_, ?_⟩
    · obtain ⟨-, -, htimer⟩ := (r.wf_sounding hs).1 h
      split
      · exact (wf_resting _ (.inr rfl)).2 ⟨rfl, rfl, htimer⟩
      · exact (wf_releasing _ rfl).2 ⟨rfl, .inr ⟨rfl, htimer⟩⟩
    · split
      · exact iff_of_false VoiceState.noConfusion hne
      · exact iff_of_false VoiceState.noConfusion hne
  all_goals exact keepsTable_refl

theorem keepsTable_retaken (program velocity : Nat) : r.keepsTable (r.retaken program velocity) := by
  unfold retaken
  split
  · next hs =>
    refine ⟨fun h => ?_, Iff.rfl⟩
    obtain ⟨howner, -, htimer⟩ := (r.wf_sounding hs).1 h
    exact (wf_sounding _ (by exact hs)).2 ⟨howner, restruck_ne_ending _ _ _, htimer⟩
  all_goals exact keepsTable_refl

theorem keepsTable_flagged (x : UpdateFlag) : r.keepsTable (r.flagged x) := by
  unfold flagged
  split
  · next hs => exact ⟨fun h => (wf_sounding _ (by exact hs)).2 ((r.wf_sounding hs).1 h), Iff.rfl⟩
  all_goals exact keepsTable_refl

/-- Every answer to a request keeps the table (R80, R82 to R87). -/
theorem Answers.keepsTable {r' : Voice} (h : r.Answers r') : r.keepsTable r' := by
  cases h with
  | ended now => exact keepsTable_ended now
  | retaken program velocity => exact keepsTable_retaken program velocity
  | flagged x => exact keepsTable_flagged x
  | granted i index layer velocity now h =>
    exact keepsTable_of_sounding rfl (by rw [h]; decide) ⟨rfl, rfl, rfl⟩ (fun h => by cases h) rfl
  | stolen i index layer velocity now h =>
    exact keepsTable_of_sounding rfl (by obtain h | h := h <;> rw [h] <;> decide) ⟨rfl, rfl, rfl⟩
      (restruck_ne_ending _ _ _) rfl

/-- A record that owes a START or RETAKE is SOUNDING. -/
theorem sounding_of_owesStart (hwf : r.wf = true) (h : r.owesStart = true) : r.state = .sounding := by
  obtain ⟨p, q, hpending⟩ := r.owesStart_iff.1 h
  have hne : r.pending ≠ none ∧ r.pending ≠ some .ending := by
    obtain hp | hp := hpending <;> rw [hp] <;> exact ⟨Option.some_ne_none _, fun h => by cases h⟩
  cases hs : r.state with
  | sounding => rfl
  | disabled => exact absurd ((r.wf_resting (.inl hs)).1 hwf).2.1 hne.1
  | free => exact absurd ((r.wf_resting (.inr hs)).1 hwf).2.1 hne.1
  | releasing =>
    obtain ⟨-, ⟨h, -⟩ | ⟨h, -⟩⟩ := (r.wf_releasing hs).1 hwf
    · exact absurd h hne.1
    · exact absurd h hne.2

/-- A record that owes an END is RELEASING. -/
theorem releasing_of_ending (hwf : r.wf = true) (h : r.pending = some .ending) : r.state = .releasing := by
  cases hs : r.state with
  | releasing => rfl
  | disabled => exact absurd ((r.wf_resting (.inl hs)).1 hwf).2.1 (by rw [h]; exact Option.some_ne_none _)
  | free => exact absurd ((r.wf_resting (.inr hs)).1 hwf).2.1 (by rw [h]; exact Option.some_ne_none _)
  | sounding => exact absurd h ((r.wf_sounding hs).1 hwf).2.1

theorem keepsTable_updateSent (x : UpdateFlag) (hs : r.state = .sounding) : r.keepsTable (r.updateSent x) :=
  ⟨fun h => (wf_sounding _ (by exact hs)).2 ((r.wf_sounding hs).1 h), Iff.rfl⟩

/-- Only a RELEASING record has a tail timer. -/
theorem tailTimer_of_not_releasing (hwf : r.wf = true) (h : r.state ≠ .releasing) : r.tailTimer = none := by
  cases hs : r.state with
  | releasing => exact absurd hs h
  | disabled => exact ((r.wf_resting (.inl hs)).1 hwf).2.2
  | free => exact ((r.wf_resting (.inr hs)).1 hwf).2.2
  | sounding => exact ((r.wf_sounding hs).1 hwf).2.2

/-- Frames taken and tails that end keep the table (R91, R94, R95). -/
theorem Serves.keepsTable {r' : Voice} (h : r.Serves r') : r.keepsTable r' := by
  cases h with
  | struck h =>
    refine ⟨fun hwf => ?_, Iff.rfl⟩
    have hs := sounding_of_owesStart hwf h
    obtain ⟨howner, -, htimer⟩ := (r.wf_sounding hs).1 hwf
    exact (wf_sounding _ (by exact hs)).2 ⟨howner, show none ≠ some Discrete.ending from nofun, htimer⟩
  | endSent limit h =>
    refine ⟨fun hwf => ?_, Iff.rfl⟩
    have hs := releasing_of_ending hwf h
    exact (wf_releasing _ (by exact hs)).2 ⟨((r.wf_releasing hs).1 hwf).1, .inl ⟨rfl, rfl⟩⟩
  | updateSent x hs => exact keepsTable_updateSent x hs
  | tailOver hs howes =>
    refine ⟨fun hwf => ?_, iff_of_false VoiceState.noConfusion (by rw [hs]; decide)⟩
    obtain ⟨howner, ⟨hpending, -⟩ | ⟨hpending, htimer⟩⟩ := (r.wf_releasing hs).1 hwf
    · exact (wf_resting _ (.inr rfl)).2 ⟨howner, hpending, rfl⟩
    · rw [hpending, htimer] at howes
      simp at howes
  | timerStopped hs =>
    refine ⟨fun hwf => ?_, Iff.rfl⟩
    have htimer := tailTimer_of_not_releasing hwf hs
    rwa [show { r with tailTimer := none } = r by rw [← htimer]]

end Voice

/-! ### The Voice Pool -/

/-- The laws of the Voice Pool, record by record. -/
def State.Pool (s : State) : Prop :=
  (∀ v, (s.voice v).wf = true ∧ ((s.voice v).state = .disabled ↔ s.voiceExists v = false)) ∧
    ∀ e, (s.engine e).wf = true

theorem State.poolWf_iff (s : State) : s.poolWf = true ↔ s.Pool := by
  simp only [State.poolWf, State.Pool, Bool.and_eq_true, List.all_eq_true, voiceIds, engineIds, List.mem_finRange,
    forall_true_left, beq_iff_eq]
  refine and_congr (forall_congr' fun v => and_congr_right fun _ => ?_) Iff.rfl
  cases s.voiceExists v <;> simp

theorem State.voiceExists_congr {s t : State} {v : VoiceId} (hp : (t.engine (engineOf v)).present = (s.engine (engineOf v)).present)
    (hc : (t.engine (engineOf v)).voiceCount = (s.engine (engineOf v)).voiceCount) : t.voiceExists v = s.voiceExists v := by
  rw [State.voiceExists, State.voiceExists, hp, hc]

/-- Records that keep the table, at engines that keep their voices. -/
theorem State.Pool.of_keeps {s t : State} (h : s.Pool) (hv : ∀ v, (s.voice v).keepsTable (t.voice v))
    (he : ∀ e, (t.engine e).present = (s.engine e).present ∧ (t.engine e).voiceCount = (s.engine e).voiceCount ∧
      ((s.engine e).wf = true → (t.engine e).wf = true)) : t.Pool := by
  refine ⟨fun v => ?_, fun e => (he e).2.2 (h.2 e)⟩
  obtain ⟨hwf, hdisabled⟩ := h.1 v
  rw [State.voiceExists_congr (he _).1 (he _).2.1]
  exact ⟨(hv v).1 hwf, (hv v).2.trans hdisabled⟩

theorem State.Pool.of_voices {s t : State} (h : s.Pool) (hv : ∀ v, (s.voice v).keepsTable (t.voice v))
    (he : t.engines = s.engines) : t.Pool := by
  have hengine : ∀ e, t.engine e = s.engine e := fun e => by rw [State.engine, he]; rfl
  exact h.of_keeps hv fun e => by rw [hengine e]; exact ⟨rfl, rfl, id⟩

theorem State.Pool.of_engines {s t : State} (h : s.Pool) (hv : t.voices = s.voices)
    (he : ∀ e, (t.engine e).present = (s.engine e).present ∧ (t.engine e).voiceCount = (s.engine e).voiceCount ∧
      ((s.engine e).wf = true → (t.engine e).wf = true)) : t.Pool :=
  h.of_keeps (fun v => by rw [State.voice_of_voices hv v]; exact Voice.keepsTable_refl) he

theorem State.Pool.setVoice {s : State} (h : s.Pool) {v : VoiceId} {r : Voice} (hr : (s.voice v).keepsTable r) :
    (s.setVoice v r).Pool := by
  refine h.of_voices (fun w => ?_) rfl
  rw [State.voice_setVoice]
  split
  · next hw => rwa [hw]
  · exact Voice.keepsTable_refl

theorem State.Pool.setEngine {s : State} (h : s.Pool) {e : EngineId} {r : Engine} (hp : r.present = (s.engine e).present)
    (hc : r.voiceCount = (s.engine e).voiceCount) (hwf : (s.engine e).wf = true → r.wf = true) : (s.setEngine e r).Pool := by
  refine h.of_engines rfl fun x => ?_
  by_cases hx : x = e
  · rw [hx, State.engine_setEngine_same]
    exact ⟨hp, hc, hwf⟩
  · rw [State.engine_setEngine_ne _ _ _ _ hx]
    exact ⟨rfl, rfl, id⟩

theorem State.Pool.path {i : Slot} {s t : State} (h : SectionPath i s t) (hs : s.Pool) : t.Pool := by
  induction h with
  | refl => exact hs
  | own _ c _ ih => exact ih.of_voices (fun _ => Voice.keepsTable_refl) rfl
  | rob _ o v ih => exact ih.of_voices (fun _ => Voice.keepsTable_refl) rfl
  | voice _ v r hr ih => exact ih.setVoice hr.keepsTable
  | offer _ n ih => exact ih.of_voices (fun _ => Voice.keepsTable_refl) rfl

/-- A record emptied into the state its voice's existence asks for (R97, R103). -/
theorem Voice.emptied_wf (r : Voice) {st : VoiceState} (h : st = .disabled ∨ st = .free) : (r.emptied st).wf = true :=
  (Voice.wf_resting _ h).2 ⟨rfl, rfl, rfl⟩

/-! ### Engines -/

theorem Engine.wf_turns {e r : Engine} (h : e.Turns r) :
    r.present = e.present ∧ r.voiceCount = e.voiceCount ∧ (e.wf = true → r.wf = true) := by
  cases h with
  | held held hp =>
    refine ⟨rfl, rfl, fun hwf => ?_⟩
    unfold Engine.wf at hwf ⊢
    dsimp only
    split at hwf
    · exact hwf
    · simp [hp] at hwf
  | control f => exact ⟨rfl, rfl, id⟩

theorem Engine.wf_tailLimit {e : Engine} {limit : Byte} (h : limit ≠ 0) (hwf : e.wf = true) :
    Engine.wf { e with tailLimit := limit.toNat } = true := by
  have hpos : limit.toNat ≠ 0 := fun h0 => h (BitVec.eq_of_toNat_eq h0)
  have hlt := limit.isLt
  unfold Engine.wf at hwf ⊢
  rw [Bool.and_eq_true] at hwf ⊢
  refine ⟨?_, hwf.2⟩
  simp only [Sys2Proof.Machine.within, Bool.and_eq_true, decide_eq_true_eq]
  omega

/-! ### BIND (R143 to R148) -/

/-- What an accepted BIND leaves at its context. -/
inductive State.BindsTo (s : State) (i : Slot) (k : TableKind) (target : Option BlockId) : State → Prop where
  | active (h : target.isSome = true ∨ (s.ctx i).state.active = false ∨ ((s.ctx i).bindings.get k).active = none) :
      State.BindsTo s i k target (s.setCtx i ((s.ctx i).setBinding k ⟨target, none⟩))
  | abandoned (h : (s.ctx i).state.active = true) :
      State.BindsTo s i k target (((s.setCtx i ((s.ctx i).setBinding k ⟨none, none⟩)).abandon i).enterReady i)
  | atRest (h : (s.ctx i).state.active = true) :
      State.BindsTo s i k target
        (s.setCtx i ((s.ctx i).setBinding k ⟨((s.ctx i).bindings.get k).active, some ⟨target, .atRest⟩⟩))
  | atPhrase :
      State.BindsTo s i k target
        (s.setCtx i ((s.ctx i).setBinding k ⟨((s.ctx i).bindings.get k).active, some ⟨target, .atPhrase⟩⟩))
  | atNextPhrase (h : (s.ctx i).state = .ready) :
      State.BindsTo s i k target
        (s.setCtx i ((s.ctx i).setBinding k ⟨((s.ctx i).bindings.get k).active, some ⟨target, .atPhrase⟩⟩).startPhrase)

theorem State.bindAt_bindsTo (s : State) (i : Slot) (k : TableKind) (target : Option BlockId) (timing : BindTiming) :
    s.BindsTo i k target (s.bindAt i k target timing).1 := by
  cases timing with
  | now =>
    cases target with
    | some b => exact .active (.inl rfl)
    | none =>
      unfold State.bindAt State.bindNone
      dsimp only
      split
      · next h => exact .abandoned h.2
      · next h =>
        refine .active ?_
        rw [not_and_or, Bool.not_eq_true, Bool.not_eq_true, Option.isSome_eq_false_iff, Option.isNone_iff_eq_none] at h
        exact .inr h.symm
  | atRest =>
    unfold State.bindAt State.bindAtRest
    dsimp only
    split
    · next h => exact .atRest h
    · next h => exact .active (.inr (.inl (Bool.eq_false_iff.2 h)))
  | atPhrase =>
    unfold State.bindAt State.bindAtPhrase
    dsimp only
    split
    · next h =>
      have hready := h.1
      rw [State.stage, State.updCtx, State.ctx_setCtx_same] at hready
      simp only [State.stage, State.updCtx, State.ctx_setCtx_same, State.setCtx_setCtx]
      exact .atNextPhrase hready
    · exact .atPhrase

/-! ### The moves of the law -/

theorem State.Pool.prompt {s t : State} (h : s.Prompt t) (hs : s.Pool) : t.Pool := by
  have ofCtx : ∀ {t : State}, t.voices = s.voices → t.engines = s.engines → t.Pool := fun hv he =>
    hs.of_voices (fun v => by rw [State.voice_of_voices hv v]; exact Voice.keepsTable_refl) he
  cases h with
  | unchanged => exact hs
  | settings | enable | arbiter | mask => exact ofCtx rfl rfl
  | disable i => exact State.Pool.path (s.path_disable i) hs
  | bind i k target timing _ =>
    have hbind := s.bindAt_bindsTo i k target timing
    generalize (s.bindAt i k target timing).1 = t at hbind ⊢
    cases hbind with
    | active | atRest | atPhrase | atNextPhrase => exact ofCtx rfl rfl
    | abandoned => exact State.Pool.path ((State.path_abandon _ i).trans (State.path_enterReady _ i)) (ofCtx rfl rfl)
  | tailLimit e limit hlimit => exact hs.setEngine rfl rfl (Engine.wf_tailLimit hlimit)

theorem State.Pool.demand {s : State} (hs : s.Pool) (x : EngineSet) (f : Control) : (s.demand x f).Pool := by
  refine hs.of_engines rfl fun e => ?_
  rw [State.engine_demand]
  split <;> exact ⟨rfl, rfl, id⟩

theorem State.Pool.begun {s : State} (hs : s.Pool) (kind : ResetKind) (limit : Nat) : (s.quiesceBegin kind limit).Pool := by
  unfold State.quiesceBegin
  dsimp only
  have hcontexts := forEach_keeps (P := State.Pool) slots _ (fun i t ht => State.Pool.path (t.path_quiesceContext i) ht)
    (hs.of_engines (t := s.setQuiesce { s.quiesce with phase := .quiescing, kind := some kind }) rfl
      fun _ => ⟨rfl, rfl, id⟩)
  generalize forEach slots _ _ = u at hcontexts ⊢
  exact (hcontexts.demand _ .quiesce).of_engines rfl fun _ => ⟨rfl, rfl, id⟩

theorem Voice.initial_wf : Voice.initial.wf = true := by decide

theorem Engine.initial_wf (f : Option Control) : Engine.wf { Engine.initial with pendingControl := f } = true := rfl

/-- A pool without engines. -/
theorem State.pool_of_absent {s : State} (hv : ∀ v, s.voice v = .initial)
    (he : ∀ e, ∃ f, s.engine e = { Engine.initial with pendingControl := f }) : s.Pool := by
  refine ⟨fun v => ?_, fun e => ?_⟩
  · obtain ⟨f, he⟩ := he (engineOf v)
    rw [hv v, State.voiceExists, he]
    exact ⟨Voice.initial_wf, iff_of_true rfl rfl⟩
  · obtain ⟨f, he⟩ := he e
    rw [he]
    exact Engine.initial_wf f

theorem State.Pool.ended {s t : State} {kind : ResetKind} {hushed : EngineSet} (h : s.resetBy t kind hushed) (hs : s.Pool) :
    t.Pool := by
  obtain ⟨-, h⟩ := h
  cases kind with
  | sectionOnly =>
    obtain ⟨-, hvoice, hengine, -⟩ := h
    refine ⟨fun v => ?_, fun e => ?_⟩
    · have hexists : t.voiceExists v = s.voiceExists v := by rw [State.voiceExists, hengine]; rfl
      have hrecord : t.voice v = (s.voice v).emptied (if s.voiceExists v = true then .free else .disabled) := hvoice v
      rw [hexists, hrecord]
      refine ⟨Voice.emptied_wf _ ?_, ?_⟩
      · split
        · exact .inr rfl
        · exact .inl rfl
      · cases s.voiceExists v
        · exact iff_of_true rfl rfl
        · exact iff_of_false VoiceState.noConfusion Bool.noConfusion
    · rw [hengine e]
      exact hs.2 e
  | full =>
    obtain ⟨-, hvoice, hengine, -⟩ := h
    exact State.pool_of_absent hvoice fun e => ⟨_, hengine e⟩

theorem State.Pool.hello {s : State} {count : Nat} (e : EngineId) (hcount : 1 ≤ count ∧ count ≤ 24) (hs : s.Pool) :
    (s.hello e count).Pool := by
  have hvoice : ∀ v, (s.hello e count).voice v =
      if engineOf v = e then (s.voice v).afterHello (voiceNumber v) count else s.voice v := fun v => by simp [State.hello]
  have hengine : ∀ x, (s.hello e count).engine x = if x = e then (s.engine e).joined count else s.engine x := fun x => by
    by_cases hx : x = e
    · subst hx; simp [State.hello]
    · simp [State.hello, State.updEngine, State.engine_setEngine_ne, hx]
  refine ⟨fun v => ?_, fun x => ?_⟩
  · rw [hvoice, State.voiceExists, hengine]
    split
    · refine ⟨?_, ?_⟩
      · refine (Voice.wf_resting _ ?_).2 ⟨rfl, rfl, rfl⟩
        unfold Voice.afterHello Voice.emptied
        dsimp only
        split
        · exact .inr rfl
        · exact .inl rfl
      · by_cases hn : voiceNumber v < count <;> simp [Voice.afterHello, Voice.emptied, Engine.joined, hn]
    · exact hs.1 v
  · rw [hengine]
    split
    · have htail := hs.2 e
      unfold Engine.wf at htail ⊢
      rw [Bool.and_eq_true] at htail
      simp only [Engine.joined, Bool.and_eq_true, Bool.true_and]
      exact ⟨htail.1, by simpa [Sys2Proof.Machine.within] using hcount⟩
    · exact hs.2 x

theorem State.Pool.advance {s : State} (hs : s.Pool) : s.advance.Pool := by
  obtain ⟨hengines, -, -, -, -, -, -, hvoice⟩ := s.advance_frame
  refine hs.of_voices (fun v => ?_) hengines
  obtain h | h := hvoice v <;> rw [h]
  · exact Voice.keepsTable_refl
  · refine ⟨fun hwf => ?_, Iff.rfl⟩
    unfold Voice.wf at hwf ⊢
    simpa only [Voice.unowned, ← Option.not_isSome, Timer.isSome_tick] using hwf

theorem State.poolLaw : SectionLaw State.Pool where
  frame hs _ hv he _ := hs.of_voices (fun v => by rw [State.voice_of_voices hv v]; exact Voice.keepsTable_refl) he
  event h hs := State.Pool.path h.path hs
  voice h hs := hs.setVoice h.keepsTable
  engine h hs := hs.setEngine (Engine.wf_turns h).1 (Engine.wf_turns h).2.1 (Engine.wf_turns h).2.2
  hello e h hs := hs.hello e h
  prompt h hs := State.Pool.prompt h hs
  begun kind limit hs := hs.begun kind limit
  ended h hs := State.Pool.ended h hs
  hushed x hs := (hs.demand x .hush).of_engines rfl fun _ => ⟨rfl, rfl, id⟩
  advance hs := hs.advance
  cleared s p := State.pool_of_absent (fun v => Vector.getElem_replicate v.isLt) fun e => ⟨none, Vector.getElem_replicate e.isLt⟩

/-- Settles O7: each move of a voice record keeps it in the table of the voice states, and a record is made or unmade DISABLED
only with the voices of its engine. -/
theorem poolLawsKept : Obligations.PoolLawsKept := by
  unfold Obligations.PoolLawsKept
  intro s t hs hstep
  exact t.poolWf_iff.2 (State.poolLaw.ofStep (s.poolWf_iff.1 hs) hstep)

end Sys2Proof.Machine
end

section
/-! PROOFS. The table of the performer states (R3, R6, R16): what each state asks of a context, and that the changes the events
make to a context keep it. -/

namespace Sys2Proof.Machine

/-! ### What the states ask of a context -/

namespace Context

variable (c : Context)

/-- What holds in every state. -/
def Sound : Prop :=
  c.settings.wf = true ∧ c.glide.wf = true ∧ ∀ p, c.committedPitch = some p → p ≤ 127

/-- What holds of an enabled performer without a note that is present. -/
def Resting : Prop :=
  c.Sound ∧ c.enabled = true ∧ c.lastFrame.isSome = true ∧ c.note = none ∧ c.candidate = false ∧
    c.timers.settle = none ∧ c.timers.glideStep = none

/-- What holds from the beginning of an attack to the end of the note: guard and phrase timer are stopped and all three kinds
bound. -/
def Cleared : Prop :=
  c.timers.guard = none ∧ c.timers.phrase = none ∧ c.deferredOnset = false ∧ c.bindings.allActive = true

/-- What holds of a performer with a note, which is its committed pitch. -/
def Sings : Prop :=
  c.Sound ∧ c.enabled = true ∧ c.lastFrame.isSome = true ∧ c.onset = none ∧ c.timers.attack = none ∧ c.Cleared ∧
    c.timers.glideStep.isSome = (c.glide.current != c.glide.target) ∧
    ∃ n, c.note = some n ∧ c.committedPitch = some n.pitch

theorem wf_iff : c.wf = true ↔ c.Sound ∧ c.stateOk = true ∧ (c.enabled = true ∨ c.state = .absent) ∧
    (c.deferredOnset = true → c.state = .ready ∧ c.timers.guard.isSome = true) := by
  unfold wf Sound
  simp only [Bool.and_eq_true, Bool.or_eq_true, beq_iff_eq, Bool.not_eq_true', ← Bool.not_eq_true, ← imp_iff_not_or]
  cases c.committedPitch with
  | none => simp; tauto
  | some p => simp; tauto

theorem noNote_iff : c.noNote = true ↔ c.note = none ∧ c.candidate = false ∧ c.timers.settle = none ∧
    c.timers.glideStep = none := by
  unfold noNote
  simp only [Bool.and_eq_true, Option.isNone_iff_eq_none, Bool.not_eq_true', and_assoc]

theorem hasNote_iff : c.hasNote = true ↔ c.lastFrame.isSome = true ∧ c.onset = none ∧ c.timers.attack = none ∧
    c.timers.guard = none ∧ c.timers.phrase = none ∧ c.bindings.allActive = true ∧
    c.timers.glideStep.isSome = (c.glide.current != c.glide.target) ∧
    ∃ n, c.note = some n ∧ c.committedPitch = some n.pitch := by
  unfold hasNote
  simp only [Bool.and_eq_true, Option.isNone_iff_eq_none, beq_iff_eq]
  cases c.note with
  | none => simp
  | some n => simp; tauto

theorem wf_absent (h : c.state = .absent) : c.wf = true ↔ c.Sound ∧ (c.note = none ∧ c.candidate = false) ∧
    (c.onset = none ∧ c.lastFrame = none ∧ c.committedPitch = none ∧ c.deferredOnset = false) ∧ c.timers = .stopped ∧
    c.bindings.noneAtRest = true := by
  rw [wf_iff, stateOk]
  simp only [h, Bool.and_eq_true, noNote_iff, Option.isNone_iff_eq_none, beq_iff_eq, reduceCtorEq, false_and, imp_false,
    Bool.not_eq_true, or_true, true_and]
  constructor
  · tauto
  · rintro ⟨hsound, hnote, ⟨honset, hlast, hcommitted, hdeferred⟩, htimers, hbindings⟩
    rw [htimers]
    exact ⟨hsound, ⟨⟨⟨⟨⟨⟨hnote.1, hnote.2, rfl, rfl⟩, honset⟩, hlast⟩, hcommitted⟩, rfl⟩, hbindings⟩, hdeferred⟩

theorem wf_ready (h : c.state = .ready) : c.wf = true ↔ c.Resting ∧ (c.onset = none ∧ c.timers.attack = none) ∧
    (c.deferredOnset = true → c.timers.guard.isSome = true) ∧ c.bindings.noneAtRest = true := by
  rw [wf_iff, stateOk, Resting]
  simp only [h, Bool.and_eq_true, noNote_iff, Option.isNone_iff_eq_none, reduceCtorEq, true_and, or_false]
  tauto

theorem wf_onset (h : c.state = .onset) : c.wf = true ↔ c.Resting ∧ (c.onset.isSome = true ∧ c.timers.attack.isSome = true) ∧
    c.Cleared := by
  rw [wf_iff, stateOk, Resting, Cleared]
  simp only [h, Bool.and_eq_true, noNote_iff, Option.isNone_iff_eq_none, reduceCtorEq, false_and, imp_false,
    Bool.not_eq_true, or_false]
  tauto

theorem wf_sounding (h : c.state = .sounding) : c.wf = true ↔ c.Sings ∧ c.candidate = false ∧ c.timers.settle = none := by
  rw [wf_iff, stateOk, Sings, Cleared]
  simp only [h, Bool.and_eq_true, hasNote_iff, Option.isNone_iff_eq_none, Bool.not_eq_true', reduceCtorEq, false_and,
    imp_false, Bool.not_eq_true, or_false]
  tauto

theorem wf_settling (h : c.state = .settling) :
    c.wf = true ↔ c.Sings ∧ c.candidate = true ∧ c.timers.settle.isSome = true := by
  rw [wf_iff, stateOk, Sings, Cleared]
  simp only [h, Bool.and_eq_true, hasNote_iff, reduceCtorEq, false_and, imp_false, Bool.not_eq_true, or_false]
  tauto

/-- In SOUNDING and SETTLING a performer has a note. -/
theorem sings_of_wf {c : Context} (hwf : c.wf = true) (h : c.state = .sounding ∨ c.state = .settling) : c.Sings := by
  obtain h | h := h
  · exact ((c.wf_sounding h).1 hwf).1
  · exact ((c.wf_settling h).1 hwf).1

theorem sound_of_wf {c : Context} (hwf : c.wf = true) : c.Sound := (c.wf_iff.1 hwf).1

/-- A context whose note has only lost or gained voices is as lawful as before. -/
theorem wf_of_note {c : Context} {note : Option NoteRecord} (h : note.map (·.pitch) = c.note.map (·.pitch))
    (hwf : c.wf = true) : ({ c with note := note } : Context).wf = true := by
  have hok : ({ c with note := note } : Context).stateOk = c.stateOk := by
    unfold stateOk hasNote noNote
    cases hn : c.note with
    | none =>
      rw [hn, Option.map_none, Option.map_eq_none_iff] at h
      rw [h]
    | some n =>
      rw [hn, Option.map_some, Option.map_eq_some_iff] at h
      obtain ⟨n', hn', hpitch⟩ := h
      rw [hn']
      simp only [hpitch, Option.isNone_some]
  rw [wf_iff] at hwf ⊢
  obtain ⟨hsound, hstate, hrest⟩ := hwf
  exact ⟨hsound, hok.trans hstate, hrest⟩

end Context

/-! ### The glide counter (R3, R71, R72) -/

theorem GlideCounter.wf_iff (g : GlideCounter) : g.wf = true ↔ g.current ≤ 12700 ∧ g.target ≤ 12700 ∧
    (1 ≤ g.step ∧ g.step ≤ 12700) ∧ (g.current < g.target → g.direction = .up) ∧
    (g.target < g.current → g.direction = .down) := by
  simp only [GlideCounter.wf, within, Bool.and_eq_true, Bool.or_eq_true, Bool.not_eq_true', decide_eq_false_iff_not,
    decide_eq_true_eq, beq_iff_eq, ← imp_iff_not_or, and_assoc]

/-- At rest on a pitch. -/
theorem GlideCounter.wf_rest {cents step : Nat} {direction : Direction} (h : cents ≤ 12700) (hstep : 1 ≤ step ∧ step ≤ 12700) :
    (GlideCounter.mk cents cents step direction).wf = true := by
  rw [GlideCounter.wf_iff]
  exact ⟨h, h, hstep, fun hlt => absurd hlt (Nat.lt_irrefl _), fun hlt => absurd hlt (Nat.lt_irrefl _)⟩

theorem GlideCounter.wf_at {pitch : Nat} (h : pitch ≤ 127) : (GlideCounter.at pitch).wf = true :=
  GlideCounter.wf_rest (by omega) (by decide)

theorem distance_bounds {a b top : Nat} (ha : a ≤ top) (hb : b ≤ top) (hne : a ≠ b) :
    1 ≤ distance a b ∧ distance a b ≤ top := by
  unfold distance
  omega

theorem divUp_bounds {n d : Nat} (hn : 1 ≤ n) (hd : 0 < d) : 1 ≤ divUp n d ∧ divUp n d ≤ n := by
  unfold divUp
  constructor
  · exact (Nat.one_le_div_iff hd).2 (by omega)
  · refine Nat.div_le_of_le_mul ?_
    obtain ⟨k, rfl⟩ : ∃ k, n = k + 1 := ⟨n - 1, by omega⟩
    obtain ⟨m, rfl⟩ : ∃ m, d = m + 1 := ⟨d - 1, by omega⟩
    rw [Nat.add_sub_cancel]
    nlinarith [Nat.zero_le (m * k)]

/-- A direction toward the target. -/
theorem GlideCounter.wf_toward {current target step : Nat} (hc : current ≤ 12700) (ht : target ≤ 12700)
    (hstep : 1 ≤ step ∧ step ≤ 12700) :
    (GlideCounter.mk current target step (if current < target then .up else .down)).wf = true := by
  rw [GlideCounter.wf_iff]
  exact ⟨hc, ht, hstep, fun h => if_pos h, fun h => if_neg (Nat.not_lt_of_gt h)⟩

/-- A retarget keeps the counter's laws, and its timer runs exactly while the counter is on its way (R71). -/
theorem GlideCounter.wf_retarget {g : GlideCounter} {cents : Nat} (time : Nat) (t : Timer) (h : g.wf = true)
    (hcents : cents ≤ 12700) :
    (g.retarget cents time).wf = true ∧
      (glideTimerAfter g cents time t).isSome = ((g.retarget cents time).current != (g.retarget cents time).target) := by
  obtain ⟨hcurrent, -, hstep, -⟩ := g.wf_iff.1 h
  by_cases hat : g.current = cents
  · obtain ⟨hglide, htimer⟩ := GlideCounter.retarget_at time t hat
    rw [hglide, htimer]
    subst hat
    exact ⟨GlideCounter.wf_rest hcents hstep, by simp⟩
  · have hdistance := distance_bounds hcurrent hcents hat
    by_cases htime : time = 0
    · subst htime
      obtain ⟨hglide, htimer⟩ := GlideCounter.retarget_prompt t hat
      rw [hglide, htimer]
      exact ⟨GlideCounter.wf_rest hcents hdistance, by simp⟩
    · obtain ⟨hglide, htimer⟩ := GlideCounter.retarget_timed t hat htime
      have hparts := divUp_bounds hdistance.1 (Nat.pos_of_ne_zero htime)
      rw [hglide, htimer]
      refine ⟨GlideCounter.wf_toward hcurrent hcents ⟨hparts.1, hparts.2.trans hdistance.2⟩, ?_⟩
      cases t <;> simp [hat, Timer.start]

/-- A step keeps the counter's laws (R72). -/
theorem GlideCounter.wf_advance {g : GlideCounter} (h : g.wf = true) (hne : g.current ≠ g.target) : g.advance.wf = true := by
  rw [GlideCounter.advance_of_wf h hne]
  obtain ⟨hcurrent, htarget, hstep, hup, hdown⟩ := g.wf_iff.1 h
  rw [GlideCounter.wf_iff]
  dsimp only
  split
  · next hlt => exact ⟨by omega, htarget, hstep, fun _ => hup hlt, fun hlt' => by omega⟩
  · next hge => exact ⟨by omega, htarget, hstep, fun hlt' => by omega, fun _ => hdown (by omega)⟩

/-! ### Staged bindings (R8, R146, R150) -/

theorem Bindings.get_appliedAll (b : Bindings) (timing : StagedTiming) (k : TableKind) :
    (b.appliedAll timing).get k = (b.get k).appliedAt timing := by
  cases k <;> rfl

theorem Binding.staged_appliedAt {b : Binding} {timing : StagedTiming} {st : Staged}
    (h : (b.appliedAt timing).staged = some st) : b.staged = some st ∧ st.timing ≠ timing := by
  unfold Binding.appliedAt at h
  split at h
  · next st' hst =>
    split at h
    · cases h
    · next hne =>
      rw [hst] at h
      cases h
      exact ⟨hst, hne⟩
  · next hnone =>
    rw [hnone] at h
    cases h

theorem Bindings.noneAtRest_appliedAll_atRest (b : Bindings) : (b.appliedAll .atRest).noneAtRest = true := by
  rw [Bindings.noneAtRest_iff]
  intro k st h
  rw [Bindings.get_appliedAll] at h
  exact (Binding.staged_appliedAt h).2

theorem Bindings.noneAtRest_appliedAll {b : Bindings} (h : b.noneAtRest = true) (timing : StagedTiming) :
    (b.appliedAll timing).noneAtRest = true := by
  rw [Bindings.noneAtRest_iff] at h ⊢
  intro k st hst
  rw [Bindings.get_appliedAll] at hst
  exact h k st (Binding.staged_appliedAt hst).1

/-- A binding of a kind that stages nothing for the rest keeps that none is staged so. -/
theorem Bindings.noneAtRest_set {b : Bindings} (h : b.noneAtRest = true) (k : TableKind) {v : Binding}
    (hv : ∀ st, v.staged = some st → st.timing ≠ .atRest) : (b.set k v).noneAtRest = true := by
  rw [Bindings.noneAtRest_iff] at h ⊢
  intro k' st hst
  by_cases hk : k' = k
  · subst hk
    rw [Bindings.get_set_same] at hst
    exact hv st hst
  · rw [Bindings.get_set_ne _ _ _ _ hk] at hst
    exact h k' st hst

theorem Bindings.allActive_iff (b : Bindings) : b.allActive = true ↔ ∀ k, (b.get k).active.isSome = true := by
  simp only [Bindings.allActive, Bool.and_eq_true]
  constructor
  · rintro ⟨⟨hmap, hcurve⟩, hplan⟩ k
    cases k with
    | map => exact hmap
    | curve => exact hcurve
    | plan => exact hplan
  · intro h
    exact ⟨⟨h .map, h .curve⟩, h .plan⟩

theorem Bindings.allActive_set {b : Bindings} (h : b.allActive = true) (k : TableKind) {v : Binding}
    (hv : v.active.isSome = true) : (b.set k v).allActive = true := by
  rw [Bindings.allActive_iff] at h ⊢
  intro k'
  by_cases hk : k' = k
  · subst hk
    rwa [Bindings.get_set_same]
  · rw [Bindings.get_set_ne _ _ _ _ hk]
    exact h k'

/-! ### Settings (R16, R18) -/

theorem Settings.wf_put {x : Settings} (h : x.wf = true) {n : Nat} {v : Byte} (hv : settingOk n v = true) :
    (x.put n v).wf = true := by
  have hlt := v.isLt
  unfold settingOk at hv
  simp only [Settings.wf, within, withinInt, Bool.and_eq_true, decide_eq_true_eq] at h ⊢
  split at hv <;> simp only [Settings.put, Bool.and_eq_true, decide_eq_true_eq, Bool.false_eq_true] at hv ⊢ <;> omega

theorem Settings.wf_putAll {pairs : List (Nat × Byte)} (hok : ∀ p ∈ pairs, settingOk p.1 p.2 = true) {x : Settings}
    (h : x.wf = true) : (pairs.foldl (fun st p => st.put p.1 p.2) x).wf = true := by
  induction pairs generalizing x with
  | nil => exact h
  | cons p ps ih =>
    obtain ⟨hp, hps⟩ := List.forall_mem_cons.1 hok
    exact ih hps (Settings.wf_put h hp)

theorem pairsOk_values {pairs : List (Nat × Byte)} (h : pairsOk pairs = true) : ∀ p ∈ pairs, settingOk p.1 p.2 = true := by
  unfold pairsOk at h
  rw [Bool.and_eq_true, List.all_eq_true] at h
  exact h.2

/-! ### Pitches (R28, R30) -/

theorem State.resolve_le {s : State} {i : Slot} {g : Gesture} {p : Nat} (h : s.resolve i g = some p) : p ≤ 127 := by
  unfold State.resolve at h
  obtain ⟨m, -, h⟩ := Option.bind_eq_some_iff.1 h
  unfold FingerMap.resolve at h
  split at h
  · cases h
  · dsimp only at h
    split at h
    · cases h
      omega
    · cases h

theorem State.choosePitch_le {s : State} {i : Slot} (g : Gesture) (h : ∀ p, (s.ctx i).committedPitch = some p → p ≤ 127) :
    s.choosePitch i g ≤ 127 := by
  unfold State.choosePitch
  split
  · next hp => exact State.resolve_le hp
  · split
    · next hp => exact h _ hp
    · exact Nat.min_le_left _ _

/-! ### Changes of a context -/

namespace Context

/-- A note that has started at a context (R54, R66). -/
def started (c : Context) (pitch : Nat) (zone : Option Nat) (velocity : Nat) (voices : List (Option VoiceId)) : Context :=
  { c with
    state := .sounding
    onset := none
    committedPitch := some pitch
    note := some ⟨pitch, zone, velocity, voices⟩
    glide := .at pitch
    timers := { c.timers with glideStep := none, attack := none } }

theorem wf_started {c : Context} (h : c.Resting) (hclear : c.Cleared) {pitch : Nat} (hp : pitch ≤ 127) (zone : Option Nat)
    (velocity : Nat) (voices : List (Option VoiceId)) : (c.started pitch zone velocity voices).wf = true := by
  obtain ⟨⟨hsettings, -, -⟩, henabled, hframe, -, hcandidate, hsettle, -⟩ := h
  refine (wf_sounding _ rfl).2 ⟨⟨⟨hsettings, GlideCounter.wf_at hp, ?_⟩, henabled, hframe, rfl, rfl, hclear, ?_, _, rfl, rfl⟩,
    hcandidate, hsettle⟩
  · intro p hpitch
    cases hpitch
    exact hp
  · simp [started, GlideCounter.at]

theorem wf_onsetBegun {c : Context} (h : c.Resting) (hclear : c.Cleared) (o : OnsetRecord) (length : Nat) :
    ({ c with state := .onset, onset := some o, timers := { c.timers with attack := Timer.start length } } : Context).wf =
      true :=
  (wf_onset _ rfl).2 ⟨h, ⟨rfl, rfl⟩, hclear⟩

/-- A context that has entered READY, its staged AT REST bindings applied. -/
def entered (c : Context) : Context :=
  { ({ c with state := .ready } : Context).startPhrase with bindings := c.bindings.appliedAll .atRest }

theorem wf_entered {c : Context} (h : c.Resting) (honset : c.onset = none) (hattack : c.timers.attack = none)
    (hdeferred : c.deferredOnset = true → c.timers.guard.isSome = true) : c.entered.wf = true :=
  (wf_ready _ rfl).2 ⟨h, ⟨honset, hattack⟩, hdeferred, Bindings.noneAtRest_appliedAll_atRest _⟩

/-- A context whose onset or note has been given up. -/
def abandoned (c : Context) : Context :=
  { c with
    note := none
    onset := none
    candidate := false
    timers := { c.timers with attack := none, settle := none, glideStep := none } }

/-- Whatever the state of a present performer, giving up its onset or note leaves it ready to enter READY. -/
theorem resting_abandoned {c : Context} (h : c.wf = true) (hp : c.state ≠ .absent) : c.abandoned.Resting := by
  have hsound := sound_of_wf h
  cases hs : c.state with
  | absent => exact absurd hs hp
  | ready =>
    obtain ⟨⟨-, henabled, hframe, -⟩, -⟩ := (c.wf_ready hs).1 h
    exact ⟨hsound, henabled, hframe, rfl, rfl, rfl, rfl⟩
  | onset =>
    obtain ⟨⟨-, henabled, hframe, -⟩, -⟩ := (c.wf_onset hs).1 h
    exact ⟨hsound, henabled, hframe, rfl, rfl, rfl, rfl⟩
  | sounding =>
    obtain ⟨-, henabled, hframe, -⟩ := sings_of_wf h (.inl hs)
    exact ⟨hsound, henabled, hframe, rfl, rfl, rfl, rfl⟩
  | settling =>
    obtain ⟨-, henabled, hframe, -⟩ := sings_of_wf h (.inr hs)
    exact ⟨hsound, henabled, hframe, rfl, rfl, rfl, rfl⟩

theorem deferred_guard {c : Context} (h : c.wf = true) (hd : c.deferredOnset = true) : c.timers.guard.isSome = true :=
  ((c.wf_iff.1 h).2.2.2 hd).2

theorem wf_abandoned_entered {c : Context} (h : c.wf = true) (hp : c.state ≠ .absent) : c.abandoned.entered.wf = true :=
  wf_entered (resting_abandoned h hp) rfl rfl (deferred_guard (c := c) h)

/-- A performer that has left (R11). -/
theorem wf_leave {c : Context} (h : c.Sound) :
    ({ c.leave with bindings := c.bindings.appliedAll .atRest } : Context).wf = true :=
  (wf_absent _ rfl).2 ⟨⟨h.1, h.2.1, fun p hp => by cases hp⟩, ⟨rfl, rfl⟩, ⟨rfl, rfl, rfl, rfl⟩, rfl,
    Bindings.noneAtRest_appliedAll_atRest _⟩

/-- The note has moved to a pitch. -/
def moved (c : Context) (pitch : Nat) (zone : Option Nat) (velocity : Nat) (voices : List (Option VoiceId))
    (glide : GlideCounter) (timer : Timer) : Context :=
  { c with
    committedPitch := some pitch
    note := some ⟨pitch, zone, velocity, voices⟩
    glide := glide
    timers := { c.timers with glideStep := timer } }

theorem sings_moved {c : Context} (h : c.Sings) {pitch : Nat} (hp : pitch ≤ 127) (zone : Option Nat) (velocity : Nat)
    (voices : List (Option VoiceId)) {glide : GlideCounter} {timer : Timer} (hglide : glide.wf = true)
    (htimer : timer.isSome = (glide.current != glide.target)) :
    (c.moved pitch zone velocity voices glide timer).Sings := by
  obtain ⟨⟨hsettings, -, -⟩, henabled, hframe, honset, hattack, hclear, -, -⟩ := h
  refine ⟨⟨hsettings, hglide, ?_⟩, henabled, hframe, honset, hattack, hclear, htimer, _, rfl, rfl⟩
  intro p hpitch
  cases hpitch
  exact hp

theorem wf_moved {c : Context} (h : c.wf = true) (hs : c.state = .sounding ∨ c.state = .settling) {pitch : Nat}
    (hp : pitch ≤ 127) (zone : Option Nat) (velocity : Nat) (voices : List (Option VoiceId)) {glide : GlideCounter}
    {timer : Timer} (hglide : glide.wf = true) (htimer : timer.isSome = (glide.current != glide.target)) :
    (c.moved pitch zone velocity voices glide timer).wf = true := by
  have hsings := sings_moved (sings_of_wf h hs) hp zone velocity voices hglide htimer
  obtain hs | hs := hs
  · exact (wf_sounding _ (by exact hs)).2 ⟨hsings, ((c.wf_sounding hs).1 h).2⟩
  · exact (wf_settling _ (by exact hs)).2 ⟨hsings, ((c.wf_settling hs).1 h).2⟩

theorem wf_closeWindow {c : Context} (h : c.wf = true) (hs : c.state = .settling) : c.closeWindow.wf = true :=
  (wf_sounding _ rfl).2 ⟨sings_of_wf (c := c) h (.inr hs), rfl, rfl⟩

end Context

end Sys2Proof.Machine
end

section
/-! PROOFS. Every event keeps its performer's context within the table of the performer states, and every step keeps all contexts
there (R3, R6, R16). -/

namespace Sys2Proof.Machine

/-! ### The shared operations at their own context -/

namespace State

variable {s : State} {i : Slot}

theorem abandon_ctx (s : State) (i : Slot) : (s.abandon i).ctx i = (s.ctx i).abandoned := by
  rw [State.abandon_eq, State.ctx_setCtx_same]
  rfl

theorem enterReady_ctx (s : State) (i : Slot) : (s.enterReady i).ctx i = (s.ctx i).entered := by
  rw [State.enterReady, State.applyAll_ctx, State.updCtx_eq, State.ctx_setCtx_same]
  rfl

/-- A note start, whatever the curve: the Voice Planner's start with some velocity (R54). -/
theorem noteStart_eq (s : State) (i : Slot) (attackTime : Nat) (g : Gesture) : ∃ velocity,
    s.noteStart i attackTime g = State.updCtx
      ((s.setCtx i { s.ctx i with committedPitch := some (s.choosePitch i g) }).plannerStart i (s.choosePitch i g) velocity) i
      fun c => { c with state := .sounding, onset := none, timers := { c.timers with attack := none } } := ⟨_, rfl⟩

theorem noteStart_ctx (s : State) (i : Slot) (attackTime : Nat) (g : Gesture) : ∃ zone velocity voices,
    (s.noteStart i attackTime g).ctx i = (s.ctx i).started (s.choosePitch i g) zone velocity voices := by
  obtain ⟨velocity, heq⟩ := s.noteStart_eq i attackTime g
  obtain ⟨-, vs, -, hctx⟩ := (s.setCtx i { s.ctx i with committedPitch := some (s.choosePitch i g) }).plannerStart_spec i
    (s.choosePitch i g) velocity
  rw [State.ctx_setCtx_same] at hctx
  exact ⟨_, velocity, vs, by rw [heq, State.updCtx_eq, State.ctx_setCtx_same, hctx]; rfl⟩

/-- The glide counter after a transition keeps its laws, and its timer runs exactly while it is on its way (R69 to R74). -/
theorem transition_glide {n : NoteRecord} (hn : (s.ctx i).note = some n) (h : (s.ctx i).glide.wf = true) {pitch : Nat}
    (hp : pitch ≤ 127) :
    let c := (s.transition i pitch).ctx i
    c.glide.wf = true ∧ c.timers.glideStep.isSome = (c.glide.current != c.glide.target) := by
  have hdifferent : ∀ z, ((s.differentZone i n.velocity pitch z).ctx i).glide.wf = true ∧
      ((s.differentZone i n.velocity pitch z).ctx i).timers.glideStep.isSome =
        (((s.differentZone i n.velocity pitch z).ctx i).glide.current !=
          ((s.differentZone i n.velocity pitch z).ctx i).glide.target) := by
    intro z
    obtain ⟨-, vs, hctx⟩ := s.differentZone_spec i n.velocity pitch z
    rw [hctx]
    exact ⟨GlideCounter.wf_at hp, by simp [GlideCounter.at]⟩
  unfold State.transition
  simp only [hn]
  split
  · simp only [State.silentToSilent, State.updCtx_eq, State.ctx_setCtx_same]
    exact ⟨GlideCounter.wf_rest (by omega) ((GlideCounter.wf_iff _).1 h).2.2.1, by simp⟩
  · split
    · next z _ _ _ =>
      unfold State.inZone
      dsimp only
      obtain ⟨-, hcontexts⟩ := State.retakes_spec ((s.updCtx i (·.withNote ({ · with pitch := pitch }))).ctx i).noteVoices
        (s.updCtx i (·.withNote ({ · with pitch := pitch }))) n.velocity
      rw [State.retargetGlide_ctx, State.ctx_of_contexts hcontexts, State.updCtx_eq, State.ctx_setCtx_same]
      exact GlideCounter.wf_retarget z.glideTime _ h (by omega)
    · exact hdifferent _
  · exact hdifferent _
  · exact hdifferent _

/-! ### Settling, with the last frame the context has or will have -/

variable {l : Option Gesture}

theorem wf_settleCommit (g : Gesture) (h : ({ s.ctx i with lastFrame := l } : Context).wf = true)
    (hs : (s.ctx i).state = .sounding ∨ (s.ctx i).state = .settling) :
    ({ (s.settleCommit i g).ctx i with lastFrame := l } : Context).wf = true := by
  unfold State.settleCommit
  split
  · exact h
  · next p hp =>
    split
    · exact h
    · obtain ⟨⟨-, hglide, -⟩, -, -, -, -, -, -, n, hn, -⟩ := Context.sings_of_wf h hs
      have hle := State.resolve_le hp
      obtain ⟨hwf, htimer⟩ := transition_glide (s := s) (i := i) hn hglide hle
      obtain ⟨-, zone, voices, glide, timer, hctx, -⟩ := s.transition_spec i p n hn
      rw [hctx] at hwf htimer
      rw [State.updCtx_eq, State.ctx_setCtx_same, hctx]
      exact Context.wf_moved h hs hle zone n.velocity voices hwf htimer

theorem wf_judgePattern (g : Gesture) (h : ({ s.ctx i with lastFrame := l } : Context).wf = true) :
    ({ (s.judgePattern i g).ctx i with lastFrame := l } : Context).wf = true := by
  unfold State.judgePattern
  dsimp only
  split
  · split
    · next hs =>
      split
      · exact wf_settleCommit g h (.inl hs)
      · have hsings := Context.sings_of_wf h (.inl hs)
        rw [State.updCtx_eq, State.ctx_setCtx_same]
        exact (Context.wf_settling _ rfl).2 ⟨hsings, rfl, rfl⟩
    · next hs =>
      split
      · refine wf_settleCommit g ?_ ?_ <;> rw [State.updCtx_eq, State.ctx_setCtx_same]
        · exact Context.wf_closeWindow h hs
        · exact .inl rfl
      · rw [State.updCtx_eq, State.ctx_setCtx_same]
        obtain ⟨hsings, hcandidate, -⟩ := (Context.wf_settling _ (by exact hs)).1 h
        exact (Context.wf_settling _ (by exact hs)).2 ⟨hsings, hcandidate, rfl⟩
    all_goals exact h
  · exact h

/-! ### Breath -/

theorem wf_noteStart (attackTime : Nat) (g : Gesture) (h : ({ s.ctx i with lastFrame := l } : Context).Resting)
    (hclear : (s.ctx i).Cleared) :
    ({ (s.noteStart i attackTime g).ctx i with lastFrame := l } : Context).wf = true := by
  obtain ⟨zone, velocity, voices, hctx⟩ := s.noteStart_ctx i attackTime g
  obtain ⟨⟨-, -, hpitch⟩, -⟩ := id h
  rw [hctx]
  exact Context.wf_started h hclear (State.choosePitch_le g hpitch) zone velocity voices

theorem wf_beginOnset (g : Gesture) (h : ({ s.ctx i with lastFrame := l } : Context).Resting)
    (hguard : (s.ctx i).timers.guard = none) (hdeferred : (s.ctx i).deferredOnset = false)
    (hbound : (s.ctx i).bindings.allActive = true) :
    ({ (s.beginOnset i g).ctx i with lastFrame := l } : Context).wf = true := by
  by_cases hw : (s.ctx i).settings.attackWindow = 0
  · rw [State.beginOnset_prompt g hw]
    refine wf_noteStart 0 g ?_ ?_ <;> rw [State.ctx_setCtx_same]
    · exact h
    · exact ⟨hguard, rfl, hdeferred, hbound⟩
  · rw [State.beginOnset_window g hw, State.ctx_setCtx_same]
    exact Context.wf_onsetBegun (c := { s.ctx i with
      lastFrame := l, timers := { (s.ctx i).timers with phrase := none } }) h ⟨hguard, rfl, hdeferred, hbound⟩ _ _

theorem wf_crossing (g : Gesture) (h : ({ s.ctx i with lastFrame := l } : Context).wf = true) (hs : (s.ctx i).state = .ready)
    (hbound : (s.ctx i).bindings.allActive = true) :
    ({ (s.crossing i g).ctx i with lastFrame := l } : Context).wf = true := by
  obtain ⟨hrest, honset, hdeferred, hstaged⟩ := (Context.wf_ready _ (by exact hs)).1 h
  unfold State.crossing
  split
  · next hguard =>
    rw [State.updCtx_eq, State.ctx_setCtx_same]
    exact (Context.wf_ready _ (by exact hs)).2 ⟨hrest, honset, fun _ => hguard, hstaged⟩
  · next hguard =>
    refine wf_beginOnset g hrest (Option.not_isSome_iff_eq_none.1 hguard) (Bool.eq_false_iff.2 fun hd => ?_) hbound
    exact hguard (hdeferred hd)

theorem wf_ghost (h : ({ s.ctx i with lastFrame := l } : Context).wf = true) (hs : (s.ctx i).state = .onset) :
    ({ (s.ghost i).ctx i with lastFrame := l } : Context).wf = true := by
  obtain ⟨hrest, -, -, -, hdeferred, -⟩ := (Context.wf_onset _ (by exact hs)).1 h
  rw [State.ghost, State.enterReady_ctx, State.updCtx_eq, State.ctx_setCtx_same]
  refine Context.wf_entered (c := { s.ctx i with
    lastFrame := l, onset := none, timers := { (s.ctx i).timers with attack := none } }) hrest rfl rfl fun hd => ?_
  rw [hdeferred] at hd
  cases hd

theorem wf_attackFrame (peakDrop : Nat) (g : Gesture) (h : ({ s.ctx i with lastFrame := l } : Context).wf = true)
    (hs : (s.ctx i).state = .onset) : ({ (s.attackFrame i peakDrop g).ctx i with lastFrame := l } : Context).wf = true := by
  obtain ⟨hrest, ⟨-, hattack⟩, hclear⟩ := (Context.wf_onset _ (by exact hs)).1 h
  unfold State.attackFrame
  split
  · exact h
  · dsimp only
    split
    · refine wf_noteStart _ g ?_ ?_ <;> rw [State.updCtx_eq, State.ctx_setCtx_same]
      · exact hrest
      · exact hclear
    · rw [State.updCtx_eq, State.ctx_setCtx_same]
      exact (Context.wf_onset _ (by exact hs)).2 ⟨hrest, ⟨rfl, hattack⟩, hclear⟩

theorem wf_release (h : ({ s.ctx i with lastFrame := l } : Context).wf = true)
    (hs : (s.ctx i).state = .sounding ∨ (s.ctx i).state = .settling) :
    ({ (s.release i).ctx i with lastFrame := l } : Context).wf = true := by
  obtain ⟨-, -, -, -, hctx⟩ := s.release_spec i
  obtain ⟨hsound, henabled, hframe, honset, hattack, ⟨-, -, hdeferred, -⟩, -⟩ := Context.sings_of_wf h hs
  rw [hctx]
  refine (Context.wf_ready _ rfl).2 ⟨⟨hsound, henabled, hframe, rfl, rfl, rfl, rfl⟩, ⟨honset, hattack⟩, fun hd => ?_,
    Bindings.noneAtRest_appliedAll_atRest _⟩
  rw [show (s.ctx i).released.deferredOnset = (s.ctx i).deferredOnset from rfl] at hd
  rw [show (s.ctx i).deferredOnset = false from hdeferred] at hd
  cases hd

theorem wf_judgeBreath (g : Gesture) (h : ({ s.ctx i with lastFrame := l } : Context).wf = true) :
    ({ (s.judgeBreath i g).ctx i with lastFrame := l } : Context).wf = true := by
  unfold State.judgeBreath
  split
  · exact h
  · split
    · exact h
    · next hs =>
      split
      · next hbound => exact wf_crossing g h hs hbound.1
      · exact h
    · next hs =>
      split
      · exact wf_ghost h hs
      · exact wf_attackFrame _ g h hs
    · next hs =>
      split
      · exact wf_release h (.inl hs)
      · exact h
    · next hs =>
      split
      · exact wf_release h (.inr hs)
      · exact h

/-! ### The taking of a frame -/

theorem express_ctx (s : State) (i j : Slot) (g : Gesture) : (s.express i g).ctx j = s.ctx j := by
  unfold State.express
  split
  · simp only [State.flagIf_eq, State.ctx_mapVoices]
  · rfl

/-- Steps 2 and 3 of the taking of a frame: breath, and the pattern of a performer that was and is in a note (R7). -/
def judged (s : State) (i : Slot) (g : Gesture) : State :=
  if (s.ctx i).state.inNote && ((s.judgeBreath i g).ctx i).state.inNote then (s.judgeBreath i g).judgePattern i g
  else s.judgeBreath i g

/-- Steps 2 to 4 of the taking of a frame: judged, and expressed by a note that was and is there (R7, R60). -/
def expressed (s : State) (i : Slot) (g : Gesture) : State :=
  if (s.ctx i).state.inNote && ((s.judged i g).ctx i).note.isSome then (s.judged i g).express i g else s.judged i g

theorem takeFrame_eq (s : State) (i : Slot) (g : Gesture) :
    s.takeFrame i g = (s.expressed i g).setCtx i { (s.expressed i g).ctx i with lastFrame := some g } := rfl

theorem expressed_ctx (s : State) (i j : Slot) (g : Gesture) : (s.expressed i g).ctx j = (s.judged i g).ctx j := by
  unfold State.expressed
  split
  · exact State.express_ctx _ i j g
  · rfl

theorem wf_judged (g : Gesture) (h : ({ s.ctx i with lastFrame := l } : Context).wf = true) :
    ({ (s.judged i g).ctx i with lastFrame := l } : Context).wf = true := by
  unfold State.judged
  split
  · exact wf_judgePattern g (wf_judgeBreath g h)
  · exact wf_judgeBreath g h

theorem wf_takeFrame {g : Gesture} (h : ({ s.ctx i with lastFrame := some g } : Context).wf = true) :
    ((s.takeFrame i g).ctx i).wf = true := by
  rw [State.takeFrame_eq, State.ctx_setCtx_same, State.expressed_ctx]
  exact wf_judged g h

end State

/-! ### Timers that run, state by state -/

namespace Context

variable {c : Context}

/-- A running attack timer belongs to an onset. -/
theorem onset_of_attack (h : c.wf = true) (ht : c.timers.attack.isSome = true) : c.state = .onset := by
  have hne : c.timers.attack ≠ none := Option.isSome_iff_ne_none.1 ht
  cases hs : c.state with
  | onset => rfl
  | absent =>
    obtain ⟨-, -, -, htimers, -⟩ := (c.wf_absent hs).1 h
    exact absurd (by rw [htimers]; rfl) hne
  | ready => exact absurd ((c.wf_ready hs).1 h).2.1.2 hne
  | sounding =>
    obtain ⟨-, -, -, -, hattack, -⟩ := sings_of_wf h (.inl hs)
    exact absurd hattack hne
  | settling =>
    obtain ⟨-, -, -, -, hattack, -⟩ := sings_of_wf h (.inr hs)
    exact absurd hattack hne

/-- Guard and phrase timer run in READY only. -/
theorem ready_of_guard_or_phrase (h : c.wf = true) (ht : c.timers.guard.isSome = true ∨ c.timers.phrase.isSome = true) :
    c.state = .ready := by
  have hne : ¬ (c.timers.guard = none ∧ c.timers.phrase = none) := by
    rintro ⟨hguard, hphrase⟩
    rw [hguard, hphrase] at ht
    simp at ht
  cases hs : c.state with
  | ready => rfl
  | absent =>
    obtain ⟨-, -, -, htimers, -⟩ := (c.wf_absent hs).1 h
    rw [htimers] at hne
    exact absurd ⟨rfl, rfl⟩ hne
  | onset =>
    obtain ⟨-, -, hguard, hphrase, -⟩ := (c.wf_onset hs).1 h
    exact absurd ⟨hguard, hphrase⟩ hne
  | sounding =>
    obtain ⟨-, -, -, -, -, ⟨hguard, hphrase, -⟩, -⟩ := sings_of_wf h (.inl hs)
    exact absurd ⟨hguard, hphrase⟩ hne
  | settling =>
    obtain ⟨-, -, -, -, -, ⟨hguard, hphrase, -⟩, -⟩ := sings_of_wf h (.inr hs)
    exact absurd ⟨hguard, hphrase⟩ hne

/-- A performer with a note, or one whose glide step timer runs, is in SOUNDING or SETTLING. -/
theorem inNote_of (h : c.wf = true) (ht : c.note.isSome = true ∨ c.timers.glideStep.isSome = true) :
    c.state = .sounding ∨ c.state = .settling := by
  have hne : ¬ (c.note = none ∧ c.timers.glideStep = none) := by
    rintro ⟨hnote, hglide⟩
    rw [hnote, hglide] at ht
    simp at ht
  cases hs : c.state with
  | sounding => exact .inl rfl
  | settling => exact .inr rfl
  | absent =>
    obtain ⟨-, ⟨hnote, -⟩, -, htimers, -⟩ := (c.wf_absent hs).1 h
    rw [htimers] at hne
    exact absurd ⟨hnote, rfl⟩ hne
  | ready =>
    obtain ⟨⟨-, -, -, hnote, -, -, hglide⟩, -⟩ := (c.wf_ready hs).1 h
    exact absurd ⟨hnote, hglide⟩ hne
  | onset =>
    obtain ⟨⟨-, -, -, hnote, -, -, hglide⟩, -⟩ := (c.wf_onset hs).1 h
    exact absurd ⟨hnote, hglide⟩ hne

/-- The settle timer runs in SETTLING only. -/
theorem settling_of_settle (h : c.wf = true) (ht : c.timers.settle.isSome = true) : c.state = .settling := by
  have hne : c.timers.settle ≠ none := Option.isSome_iff_ne_none.1 ht
  cases hs : c.state with
  | settling => rfl
  | absent =>
    obtain ⟨-, -, -, htimers, -⟩ := (c.wf_absent hs).1 h
    exact absurd (by rw [htimers]; rfl) hne
  | ready =>
    obtain ⟨⟨-, -, -, -, -, hsettle, -⟩, -⟩ := (c.wf_ready hs).1 h
    exact absurd hsettle hne
  | onset =>
    obtain ⟨⟨-, -, -, -, -, hsettle, -⟩, -⟩ := (c.wf_onset hs).1 h
    exact absurd hsettle hne
  | sounding => exact absurd ((c.wf_sounding hs).1 h).2.2 hne

/-- A step of the glide keeps the note's table: the timer stops when the target is reached (R72). -/
theorem wf_glideStepped (h : c.wf = true) (hs : c.state = .sounding ∨ c.state = .settling)
    (hne : c.glide.current ≠ c.glide.target) : c.glideStepped.wf = true := by
  have hsings : c.glideStepped.Sings := by
    obtain ⟨⟨hsettings, hglide, hpitch⟩, henabled, hframe, honset, hattack, hclear, -, hnote⟩ := sings_of_wf h hs
    refine ⟨⟨hsettings, GlideCounter.wf_advance hglide hne, hpitch⟩, henabled, hframe, honset, hattack, hclear, ?_, hnote⟩
    by_cases hend : c.glide.advance.current = c.glide.advance.target <;> simp [glideStepped, hend, Timer.start]
  obtain hs | hs := hs
  · exact (wf_sounding _ (by exact hs)).2 ⟨hsings, ((c.wf_sounding hs).1 h).2⟩
  · exact (wf_settling _ (by exact hs)).2 ⟨hsings, ((c.wf_settling hs).1 h).2⟩

theorem wf_of_lastFrame {l : Option Gesture} (hl : c.lastFrame = l)
    (h : ({ c with lastFrame := l } : Context).wf = true) : c.wf = true := by
  subst hl
  exact h

/-- A present performer has a last frame. -/
theorem lastFrame_of_present (h : c.wf = true) (hp : c.state ≠ .absent) : ∃ g, c.lastFrame = some g :=
  Option.isSome_iff_exists.1 (resting_abandoned h hp).2.2.1

/-- The silence timer of a present performer and its last frame are of no weight in the table. -/
theorem wf_silence_frame (h : c.wf = true) (hp : c.state ≠ .absent) (t : Timer) (g : Gesture) :
    ({ c with timers := { c.timers with silence := t }, lastFrame := some g } : Context).wf = true := by
  cases hs : c.state with
  | absent => exact absurd hs hp
  | ready =>
    obtain ⟨⟨hsound, henabled, -, hrest⟩, hready⟩ := (c.wf_ready hs).1 h
    exact (wf_ready _ rfl).2 ⟨⟨hsound, henabled, rfl, hrest⟩, hready⟩
  | onset =>
    obtain ⟨⟨hsound, henabled, -, hrest⟩, honset⟩ := (c.wf_onset hs).1 h
    exact (wf_onset _ rfl).2 ⟨⟨hsound, henabled, rfl, hrest⟩, honset⟩
  | sounding =>
    obtain ⟨⟨hsound, henabled, -, hrest⟩, hnote⟩ := (c.wf_sounding hs).1 h
    exact (wf_sounding _ rfl).2 ⟨⟨hsound, henabled, rfl, hrest⟩, hnote⟩
  | settling =>
    obtain ⟨⟨hsound, henabled, -, hrest⟩, hnote⟩ := (c.wf_settling hs).1 h
    exact (wf_settling _ rfl).2 ⟨⟨hsound, henabled, rfl, hrest⟩, hnote⟩

end Context

/-! ### The events -/

namespace State

variable {s : State} {i : Slot}

theorem wf_gestureAt (g : Gesture) (h : (s.ctx i).wf = true) : ((s.gestureAt i g).ctx i).wf = true := by
  unfold State.gestureAt
  dsimp only
  split
  · next henabled =>
    split
    · next hs =>
      obtain ⟨hsound, ⟨hnote, hcandidate⟩, ⟨honset, -, -, hdeferred⟩, htimers, -⟩ := (Context.wf_absent _ hs).1 h
      refine wf_takeFrame ?_
      rw [State.join, State.ctx_offer, State.applyAll_ctx, State.updCtx_eq, State.ctx_setCtx_same]
      refine (Context.wf_ready _ rfl).2 ⟨⟨hsound, henabled, rfl, hnote, hcandidate, ?_, ?_⟩, ⟨honset, ?_⟩, fun hd => ?_,
        Bindings.noneAtRest_appliedAll_atRest _⟩
      · exact (congrArg Timers.settle htimers)
      · exact (congrArg Timers.glideStep htimers)
      · exact (congrArg Timers.attack htimers)
      · exact absurd (hdeferred.symm.trans hd) Bool.noConfusion
    all_goals
      next hs =>
      refine wf_takeFrame ?_
      rw [State.updCtx_eq, State.ctx_setCtx_same]
      exact Context.wf_silence_frame h (by rw [hs]; decide) _ g
  · exact h

theorem settleCommit_lastFrame (s : State) (i : Slot) (g : Gesture) :
    ((s.settleCommit i g).ctx i).lastFrame = (s.ctx i).lastFrame := by
  unfold State.settleCommit
  split
  · rfl
  · next p _ =>
    split
    · rfl
    · rw [State.updCtx_eq, State.ctx_setCtx_same]
      cases hn : (s.ctx i).note with
      | none => simp only [State.transition, hn]
      | some n =>
        obtain ⟨-, zone, voices, glide, timer, hctx, -⟩ := s.transition_spec i p n hn
        rw [hctx]

theorem noteStart_lastFrame (s : State) (i : Slot) (attackTime : Nat) (g : Gesture) :
    ((s.noteStart i attackTime g).ctx i).lastFrame = (s.ctx i).lastFrame := by
  obtain ⟨zone, velocity, voices, hctx⟩ := s.noteStart_ctx i attackTime g
  rw [hctx]
  rfl

theorem beginOnset_lastFrame (s : State) (i : Slot) (g : Gesture) :
    ((s.beginOnset i g).ctx i).lastFrame = (s.ctx i).lastFrame := by
  by_cases hw : (s.ctx i).settings.attackWindow = 0
  · rw [State.beginOnset_prompt g hw, State.noteStart_lastFrame, State.ctx_setCtx_same]
  · rw [State.beginOnset_window g hw, State.ctx_setCtx_same]

theorem wf_settleExpiry (h : (s.ctx i).wf = true) : ((s.settleExpiry i).ctx i).wf = true := by
  unfold State.settleExpiry
  dsimp only
  split
  · next hrun =>
    have hs := Context.settling_of_settle h hrun
    obtain ⟨g, hg⟩ := Context.lastFrame_of_present h (by rw [hs]; decide)
    simp only [hs, hg]
    refine Context.wf_of_lastFrame (State.settleCommit_lastFrame _ i g) (wf_settleCommit g ?_ ?_) <;>
      rw [State.updCtx_eq, State.ctx_setCtx_same]
    · exact Context.wf_closeWindow (c := s.ctx i) h hs
    · exact .inl rfl
  · exact h

theorem wf_attackExpiry (h : (s.ctx i).wf = true) : ((s.attackExpiry i).ctx i).wf = true := by
  unfold State.attackExpiry
  dsimp only
  split
  · exact h
  · next run hrun =>
    have hs := Context.onset_of_attack h (by rw [hrun]; rfl)
    obtain ⟨g, hg⟩ := Context.lastFrame_of_present h (by rw [hs]; decide)
    obtain ⟨hrest, -, hclear⟩ := (Context.wf_onset _ hs).1 h
    simp only [hs, hg]
    refine Context.wf_of_lastFrame (State.noteStart_lastFrame _ i _ g) (wf_noteStart _ g ?_ ?_) <;>
      simp only [State.updCtx_eq, State.ctx_setCtx_same]
    · exact hrest
    · exact hclear

theorem wf_guardExpiry (h : (s.ctx i).wf = true) : ((s.guardExpiry i).ctx i).wf = true := by
  unfold State.guardExpiry
  dsimp only
  split
  · next hrun =>
    have hs := Context.ready_of_guard_or_phrase h (.inl hrun)
    obtain ⟨g, hg⟩ := Context.lastFrame_of_present h (by rw [hs]; decide)
    obtain ⟨hrest, honset, -, hstaged⟩ := (Context.wf_ready _ hs).1 h
    simp only [hs, hg]
    split
    · next hholds =>
      obtain ⟨-, -, -, hbound, -⟩ := (State.deferredHolds_iff s i g).1 hholds
      refine Context.wf_of_lastFrame (State.beginOnset_lastFrame _ i g) (wf_beginOnset g ?_ ?_ ?_ ?_) <;>
        rw [State.updCtx_eq, State.ctx_setCtx_same]
      · exact hrest
      · exact hbound
    · rw [State.updCtx_eq, State.ctx_setCtx_same]
      exact (Context.wf_ready _ (by exact hs)).2 ⟨hrest, honset, by simp, hstaged⟩
  · exact h

theorem wf_silenceExpiry (h : (s.ctx i).wf = true) : ((s.silenceExpiry i).ctx i).wf = true := by
  by_cases hrun : (s.ctx i).timers.silence = none
  · have : s.silenceExpiry i = s := by simp only [State.silenceExpiry, Timer.running, hrun]; rfl
    rwa [this]
  · have hp : (s.ctx i).state ≠ .absent := fun hs => by
      obtain ⟨-, -, -, htimers, -⟩ := (Context.wf_absent _ hs).1 h
      exact hrun (congrArg Timers.silence htimers)
    obtain ⟨-, -, -, -, hctx⟩ := s.abandon_enterAbsent_spec i
    rw [s.silenceExpiry_present i hp hrun, State.ctx_offer, hctx]
    exact Context.wf_leave (Context.sound_of_wf h)

theorem wf_phraseExpiry (h : (s.ctx i).wf = true) : ((s.phraseExpiry i).ctx i).wf = true := by
  unfold State.phraseExpiry
  dsimp only
  split
  · next hrun =>
    have hs := Context.ready_of_guard_or_phrase h (.inr hrun)
    obtain ⟨hrest, honset, hdeferred, hstaged⟩ := (Context.wf_ready _ hs).1 h
    simp only [hs]
    rw [State.applyAll_ctx, State.updCtx_eq, State.ctx_setCtx_same]
    exact (Context.wf_ready _ (by exact hs)).2 ⟨hrest, honset, hdeferred, Bindings.noneAtRest_appliedAll hstaged _⟩
  · exact h

theorem wf_glideStep (h : (s.ctx i).wf = true) : ((s.glideStep i).ctx i).wf = true := by
  by_cases hrun : (s.ctx i).timers.glideStep = none
  · have : s.glideStep i = s := by simp only [State.glideStep, Timer.running, hrun]; rfl
    rwa [this]
  · have hinNote := Context.inNote_of h (.inr (Option.isSome_iff_ne_none.2 hrun))
    obtain ⟨-, -, -, -, -, -, htimer, n, hn, -⟩ := Context.sings_of_wf h hinNote
    have hne : (s.ctx i).glide.current ≠ (s.ctx i).glide.target := by
      rw [Option.isSome_iff_ne_none.2 hrun] at htimer
      simpa using htimer.symm
    rw [State.glideStep_onItsWay hrun (by rw [hn]; exact Option.some_ne_none n) hne, State.flagGlideVoices,
      State.flagVoices_ctx, State.ctx_setCtx_same]
    exact Context.wf_glideStepped h hinNote hne

end State

end Sys2Proof.Machine
end

section
/-! PROOFS. The contexts over every step: commands, a HELLO, a quiesce and its end, and time (R13, R14, R18, R22, R97, R143 to R148,
R175). -/

namespace Sys2Proof.Machine

/-- A kind unbound names no block that was not named. -/
theorem Bindings.set_none_within (b : Bindings) (k : TableKind) : (b.set k ⟨none, none⟩).within b := by
  intro k' x hx
  by_cases hk : k' = k
  · subst hk
    simp [Bindings.namesAt, Bindings.get_set_same] at hx
  · simpa only [Bindings.namesAt, Bindings.get_set_ne _ _ _ _ hk] using hx

/-- Every context is within its laws. -/
def State.Contexts (s : State) : Prop := ∀ i, (s.ctx i).wf = true

theorem State.contextsWf_iff (s : State) : s.contextsWf = true ↔ s.Contexts := by
  simp only [State.contextsWf, State.Contexts, List.all_eq_true, slots, List.mem_finRange, forall_true_left]

theorem State.Contexts.of_contexts {s t : State} (h : s.Contexts) (hc : t.contexts = s.contexts) : t.Contexts := fun i => by
  rw [State.ctx_of_contexts hc i]
  exact h i

theorem State.Contexts.setCtx {s : State} (h : s.Contexts) {i : Slot} {c : Context} (hc : c.wf = true) :
    (s.setCtx i c).Contexts := fun j => by
  rw [State.ctx_setCtx]
  split
  · exact hc
  · exact h j

/-- What happens at one performer leaves the other contexts lawful. -/
theorem State.Contexts.path {s t : State} {i : Slot} (h : s.Contexts) (hpath : SectionPath i s t)
    (hi : (t.ctx i).wf = true) : t.Contexts := fun j => by
  by_cases hj : j = i
  · rwa [hj]
  · obtain ⟨note, hctx, hpitch⟩ := hpath.others hj
    rw [hctx]
    exact Context.wf_of_note hpitch (h j)

theorem State.Contexts.event {s t : State} {i : Slot} (hs : s.Contexts) (h : s.SectionEvent i t) : t.Contexts := by
  refine hs.path h.path ?_
  cases h with
  | gesture g _ => exact State.wf_gestureAt g (hs i)
  | settleExpiry => exact State.wf_settleExpiry (hs i)
  | attackExpiry => exact State.wf_attackExpiry (hs i)
  | guardExpiry => exact State.wf_guardExpiry (hs i)
  | silenceExpiry => exact State.wf_silenceExpiry (hs i)
  | phraseExpiry => exact State.wf_phraseExpiry (hs i)
  | glideStep => exact State.wf_glideStep (hs i)

/-! ### Commands at a context -/

namespace Context

variable {c : Context}

theorem wf_settings (h : c.wf = true) {x : Settings} (hx : x.wf = true) : ({ c with settings := x } : Context).wf = true := by
  rw [wf_iff] at h ⊢
  obtain ⟨⟨-, hglide, hpitch⟩, hrest⟩ := h
  exact ⟨⟨hx, hglide, hpitch⟩, hrest⟩

theorem wf_enabled (h : c.wf = true) : ({ c with enabled := true } : Context).wf = true := by
  rw [wf_iff] at h ⊢
  obtain ⟨hsound, hstate, -, hdeferred⟩ := h
  exact ⟨hsound, hstate, .inl rfl, hdeferred⟩

theorem wf_disabled_absent (h : c.wf = true) (hs : c.state = .absent) : ({ c with enabled := false } : Context).wf = true := by
  rw [wf_iff] at h ⊢
  obtain ⟨hsound, hstate, -, hdeferred⟩ := h
  exact ⟨hsound, hstate, .inr hs, hdeferred⟩

theorem enabled_of_present (h : c.wf = true) (hp : c.state ≠ .absent) : c.enabled = true :=
  (c.wf_iff.1 h).2.2.1.resolve_right hp

/-- Outside notes and onsets a performer is ABSENT or READY. -/
theorem not_active_iff : c.state.active = false ↔ c.state = .absent ∨ c.state = .ready := by
  cases c.state <;> simp [PerformerState.active]

/-- With a note or an onset all three kinds are bound. -/
theorem allActive_of_active (h : c.wf = true) (hs : c.state.active = true) : c.bindings.allActive = true := by
  cases hc : c.state with
  | absent => rw [hc] at hs; cases hs
  | ready => rw [hc] at hs; cases hs
  | onset => exact ((c.wf_onset hc).1 h).2.2.2.2.2
  | sounding =>
    obtain ⟨-, -, -, -, -, ⟨-, -, -, hbound⟩, -⟩ := sings_of_wf h (.inl hc)
    exact hbound
  | settling =>
    obtain ⟨-, -, -, -, -, ⟨-, -, -, hbound⟩, -⟩ := sings_of_wf h (.inr hc)
    exact hbound

/-- Bindings beside the state: with a note or an onset all three are active, without none is staged for the rest. -/
theorem wf_bindings (h : c.wf = true) {b : Bindings} (hactive : c.state.active = true → b.allActive = true)
    (hrest : c.state.active = false → c.bindings.noneAtRest = true → b.noneAtRest = true) : ({ c with bindings := b } : Context).wf = true := by
  cases hc : c.state with
  | absent =>
    obtain ⟨hsound, hnote, hgone, htimers, hstaged⟩ := (c.wf_absent hc).1 h
    exact (wf_absent _ rfl).2 ⟨hsound, hnote, hgone, htimers, hrest (by rw [hc]; rfl) hstaged⟩
  | ready =>
    obtain ⟨hresting, honset, hdeferred, hstaged⟩ := (c.wf_ready hc).1 h
    exact (wf_ready _ rfl).2 ⟨hresting, honset, hdeferred, hrest (by rw [hc]; rfl) hstaged⟩
  | onset =>
    obtain ⟨hresting, honset, hguard, hphrase, hdeferred, -⟩ := (c.wf_onset hc).1 h
    exact (wf_onset _ rfl).2 ⟨hresting, honset, hguard, hphrase, hdeferred, hactive (by rw [hc]; rfl)⟩
  | sounding =>
    obtain ⟨⟨hsound, henabled, hframe, honset, hattack, ⟨hguard, hphrase, hdeferred, -⟩, hnote⟩, hsettled⟩ :=
      (c.wf_sounding hc).1 h
    exact (wf_sounding _ rfl).2 ⟨⟨hsound, henabled, hframe, honset, hattack,
      ⟨hguard, hphrase, hdeferred, hactive (by rw [hc]; rfl)⟩, hnote⟩, hsettled⟩
  | settling =>
    obtain ⟨⟨hsound, henabled, hframe, honset, hattack, ⟨hguard, hphrase, hdeferred, -⟩, hnote⟩, hsettling⟩ :=
      (c.wf_settling hc).1 h
    exact (wf_settling _ rfl).2 ⟨⟨hsound, henabled, hframe, honset, hattack,
      ⟨hguard, hphrase, hdeferred, hactive (by rw [hc]; rfl)⟩, hnote⟩, hsettling⟩

theorem wf_startPhrase (h : c.wf = true) (hs : c.state = .ready) : c.startPhrase.wf = true := by
  obtain ⟨hresting, honset, hdeferred, hstaged⟩ := (c.wf_ready hs).1 h
  exact (wf_ready _ (by exact hs)).2 ⟨hresting, honset, hdeferred, hstaged⟩

/-- A binding staged beside the active one, for the rest of an active performer only (R147, R148). -/
theorem wf_staged (h : c.wf = true) (k : TableKind) (st : Staged) (hst : st.timing = .atPhrase ∨ c.state.active = true) :
    (c.setBinding k ⟨(c.bindings.get k).active, some st⟩).wf = true := by
  refine wf_bindings h (fun hs => ?_) fun hs hnone => Bindings.noneAtRest_set hnone k fun st' hst' => ?_
  · have hbound := allActive_of_active h hs
    exact Bindings.allActive_set hbound k ((Bindings.allActive_iff _).1 hbound k)
  · cases hst'
    rw [hst.resolve_right (by rw [hs]; decide)]
    decide

/-- An active binding replaced: by a block, or where nothing is bound or nothing sounds (R144, R145, R147). -/
theorem wf_bound (h : c.wf = true) (k : TableKind) (target : Option BlockId)
    (ht : target.isSome = true ∨ c.state.active = false ∨ (c.bindings.get k).active = none) :
    (c.setBinding k ⟨target, none⟩).wf = true := by
  refine wf_bindings h (fun hs => ?_) fun _ hnone => Bindings.noneAtRest_set hnone k fun st hst => by cases hst
  have hbound := allActive_of_active h hs
  obtain ht | ht | ht := ht
  · exact Bindings.allActive_set hbound k ht
  · rw [hs] at ht
    cases ht
  · have := (Bindings.allActive_iff _).1 hbound k
    rw [ht] at this
    cases this

theorem wf_initial : initial.wf = true := by decide

/-- A performer that a quiesce has found: in ONSET or with a note it is given up and enters READY (R175). -/
theorem quieted_eq (c : Context) : c.quieted = c.abandoned.entered := rfl

theorem present_of_active (hs : c.state.active = true) : c.state ≠ .absent := fun h => by
  rw [h] at hs
  cases hs

/-- A context one tu later has the timers it had (R4). -/
theorem wf_tick (h : c.wf = true) : ({ c with timers := c.timers.tick } : Context).wf = true := by
  have hnone : ∀ t : Timer, t.tick = none ↔ t = none := fun t => by cases t <;> simp [Timer.tick]
  have hrest : c.Resting → ({ c with timers := c.timers.tick } : Context).Resting := by
    simp only [Resting, Sound, Timers.tick, hnone]
    exact id
  have hsings : c.Sings → ({ c with timers := c.timers.tick } : Context).Sings := by
    simp only [Sings, Sound, Cleared, Timers.tick, hnone, Timer.isSome_tick]
    exact id
  cases hs : c.state with
  | absent =>
    obtain ⟨hsound, hnote, hgone, htimers, hstaged⟩ := (c.wf_absent hs).1 h
    exact (wf_absent _ rfl).2 ⟨hsound, hnote, hgone, by rw [htimers]; rfl, hstaged⟩
  | ready =>
    obtain ⟨hresting, ⟨honset, hattack⟩, hdeferred, hstaged⟩ := (c.wf_ready hs).1 h
    exact (wf_ready _ rfl).2 ⟨hrest hresting, ⟨honset, (hnone _).2 hattack⟩,
      fun hd => (Timer.isSome_tick _).trans (hdeferred hd), hstaged⟩
  | onset =>
    obtain ⟨hresting, ⟨honset, hattack⟩, hguard, hphrase, hclear⟩ := (c.wf_onset hs).1 h
    exact (wf_onset _ rfl).2 ⟨hrest hresting, ⟨honset, (Timer.isSome_tick _).trans hattack⟩, (hnone _).2 hguard,
      (hnone _).2 hphrase, hclear⟩
  | sounding =>
    obtain ⟨hnote, hcandidate, hsettle⟩ := (c.wf_sounding hs).1 h
    exact (wf_sounding _ rfl).2 ⟨hsings hnote, hcandidate, (hnone _).2 hsettle⟩
  | settling =>
    obtain ⟨hnote, hcandidate, hsettle⟩ := (c.wf_settling hs).1 h
    exact (wf_settling _ rfl).2 ⟨hsings hnote, hcandidate, (Timer.isSome_tick _).trans hsettle⟩

end Context

/-! ### The moves of the law -/

theorem State.Contexts.disable {s : State} (hs : s.Contexts) (i : Slot) : (s.disable i).Contexts := by
  refine hs.path (s.path_disable i) ?_
  by_cases hp : (s.ctx i).state = .absent
  · rw [s.disable_not_present i (.inl hp), State.ctx_setCtx_same]
    exact Context.wf_disabled_absent (hs i) hp
  · obtain ⟨-, -, -, hctx, -⟩ := s.disable_present_spec i hp (Context.enabled_of_present (hs i) hp)
    rw [hctx]
    exact Context.wf_disabled_absent (Context.wf_leave (Context.sound_of_wf (hs i))) rfl

theorem State.Contexts.bind {s t : State} {i : Slot} {k : TableKind} {target : Option BlockId} (hs : s.Contexts)
    (h : s.BindsTo i k target t) : t.Contexts := by
  cases h with
  | active hactive => exact hs.setCtx (Context.wf_bound (hs i) k target hactive)
  | atRest hactive => exact hs.setCtx (Context.wf_staged (hs i) k _ (.inr hactive))
  | atPhrase => exact hs.setCtx (Context.wf_staged (hs i) k _ (.inl rfl))
  | atNextPhrase hready => exact hs.setCtx (Context.wf_startPhrase (Context.wf_staged (hs i) k _ (.inl rfl)) hready)
  | abandoned hactive =>
    refine hs.path (((SectionPath.refl.own _ ?_).trans (State.path_abandon _ i)).trans (State.path_enterReady _ i)) ?_
    · exact Bindings.set_none_within _ k
    · rw [State.enterReady_ctx, State.abandon_ctx, State.ctx_setCtx_same]
      exact Context.wf_entered (Context.resting_abandoned (c := s.ctx i) (hs i) (Context.present_of_active hactive)) rfl rfl
        (Context.deferred_guard (c := s.ctx i) (hs i))

theorem State.Contexts.prompt {s t : State} (hs : s.Contexts) (h : s.Prompt t) : t.Contexts := by
  cases h with
  | unchanged => exact hs
  | tailLimit | arbiter | mask => exact hs.of_contexts rfl
  | settings i pairs hpairs =>
    exact hs.setCtx (Context.wf_settings (hs i)
      (Settings.wf_putAll (pairsOk_values hpairs) (Context.sound_of_wf (hs i)).1))
  | enable i => exact hs.setCtx (Context.wf_enabled (hs i))
  | disable i => exact hs.disable i
  | bind i k target timing _ => exact hs.bind (s.bindAt_bindsTo i k target timing)

theorem State.Contexts.quiesceContext {s : State} (hs : s.Contexts) (i : Slot) : (s.quiesceContext i).Contexts := by
  refine hs.path (s.path_quiesceContext i) ?_
  obtain ⟨-, -, -, hctx⟩ := s.quiesceContext_spec i
  rw [hctx]
  split
  · next hactive => exact Context.wf_abandoned_entered (hs i) (Context.present_of_active hactive)
  · exact hs i

theorem State.Contexts.begun {s : State} (hs : s.Contexts) (kind : ResetKind) (limit : Nat) :
    (s.quiesceBegin kind limit).Contexts := by
  have hcontexts := forEach_keeps (P := State.Contexts) slots (fun i s => s.quiesceContext i)
    (fun i t ht => ht.quiesceContext i)
    (hs.of_contexts (t := s.setQuiesce { s.quiesce with phase := .quiescing, kind := some kind }) rfl)
  unfold State.quiesceBegin
  dsimp only
  generalize forEach slots _ _ = u at hcontexts ⊢
  exact hcontexts.of_contexts rfl

theorem State.Contexts.ended {s t : State} {kind : ResetKind} {hushed : EngineSet} (hs : s.Contexts)
    (h : s.resetBy t kind hushed) : t.Contexts := by
  obtain ⟨-, h⟩ := h
  intro i
  cases kind with
  | full => rw [h.1 i]; exact Context.wf_initial
  | sectionOnly =>
    rw [h.1 i]
    obtain ⟨hsettings, -, -⟩ := Context.sound_of_wf (hs i)
    by_cases hp : (s.ctx i).state = .absent
    · obtain ⟨-, -, ⟨-, hframe, -⟩, -⟩ := (Context.wf_absent _ hp).1 (hs i)
      refine (Context.wf_absent _ (if_pos hp)).2 ⟨⟨hsettings, GlideCounter.wf_rest (by decide) (by decide), by simp⟩, ⟨rfl, rfl⟩,
        ⟨rfl, hframe, rfl, rfl⟩, rfl, Bindings.noneAtRest_appliedAll_atRest _⟩
    · obtain ⟨-, -, hframe, -⟩ := Context.resting_abandoned (hs i) hp
      refine (Context.wf_ready _ (if_neg hp)).2 ⟨⟨⟨hsettings, GlideCounter.wf_rest (by decide) (by decide), by simp⟩,
        Context.enabled_of_present (c := s.ctx i) (hs i) hp, hframe, rfl, rfl, rfl, rfl⟩, ⟨rfl, rfl⟩, by simp,
        Bindings.noneAtRest_appliedAll_atRest _⟩

theorem State.Contexts.hello {s : State} (hs : s.Contexts) (e : EngineId) (count : Nat) : (s.hello e count).Contexts := by
  intro i
  have hctx : (s.hello e count).ctx i = (s.ctx i).lose fun v => engineOf v = e := by simp [State.hello]
  rw [hctx]
  refine Context.wf_of_note ?_ (hs i)
  rw [Option.map_map]
  rfl

theorem State.Contexts.advance {s : State} (hs : s.Contexts) : s.advance.Contexts := by
  obtain ⟨-, -, -, -, -, -, hctx, -⟩ := s.advance_frame
  intro i
  obtain h | h := hctx i <;> rw [h]
  · exact hs i
  · exact Context.wf_tick (hs i)

theorem State.contexts_cleared (s : State) (p : Power) : (s.cleared p).Contexts := fun i => by
  have h : (s.cleared p).ctx i = Context.initial := Vector.getElem_replicate i.isLt
  rw [h]
  exact Context.wf_initial

theorem State.contextsLaw : SectionLaw State.Contexts where
  frame hs hc _ _ _ := hs.of_contexts hc
  event h hs := hs.event h
  voice _ hs := hs.of_contexts rfl
  engine _ hs := hs.of_contexts rfl
  hello e _ hs := hs.hello e _
  prompt h hs := hs.prompt h
  begun kind limit hs := hs.begun kind limit
  ended h hs := hs.ended h
  hushed _ hs := hs.of_contexts rfl
  advance hs := hs.advance
  cleared s p := s.contexts_cleared p

/-- Settles O8: an event keeps its performer's context in the table of the states, and of other contexts it changes only which
voices their notes have. -/
theorem contextLawsKept : Obligations.ContextLawsKept := by
  unfold Obligations.ContextLawsKept
  intro s t hs hstep
  exact t.contextsWf_iff.2 (State.contextsLaw.ofStep (s.contextsWf_iff.1 hs) hstep)

end Sys2Proof.Machine
end

section
/-! PROOFS. A voice record is SOUNDING under a performer exactly when it stands in the voice list of that performer's note, over
every event (R61, R66, R74, R75, R80, R85 to R87, R97). -/

namespace Sys2Proof.Machine

/-! ### The law, and changes beside it -/

/-- The voice lists name each voice once, and exactly the records that are SOUNDING under the performer. -/
def State.Owned (s : State) : Prop :=
  (∀ i, (s.ctx i).noteVoices.Nodup) ∧
    ∀ v i, (s.voice v).state = .sounding ∧ (s.voice v).owner = some i ↔ v ∈ (s.ctx i).noteVoices

theorem State.ownedWf_iff (s : State) : s.ownedWf = true ↔ s.Owned := by
  simp only [State.ownedWf, State.Owned, Bool.and_eq_true, List.all_eq_true, slots, voiceIds, List.mem_finRange,
    forall_true_left, decide_eq_true_eq]
  refine and_congr Iff.rfl (forall_congr' fun v => forall_congr' fun i => ?_)
  rw [Bool.beq_eq_decide_eq, decide_eq_true_eq, Bool.eq_iff_iff, List.contains_iff_mem, Bool.and_eq_true, beq_iff_eq,
    beq_iff_eq]

namespace State.Owned

variable {s t : State} {i : Slot}

/-- Only states, owners and voice lists count. -/
theorem of_same (h : s.Owned) (hv : ∀ v, (t.voice v).state = (s.voice v).state ∧ (t.voice v).owner = (s.voice v).owner)
    (hc : ∀ j, (t.ctx j).noteVoices = (s.ctx j).noteVoices) : t.Owned := by
  refine ⟨fun j => by rw [hc]; exact h.1 j, fun v j => ?_⟩
  rw [hc, (hv v).1, (hv v).2]
  exact h.2 v j

theorem frame (h : s.Owned) (hv : t.voices = s.voices) (hc : t.contexts = s.contexts) : t.Owned :=
  h.of_same (fun v => by rw [State.voice_of_voices hv v]; exact ⟨rfl, rfl⟩) fun j => by rw [State.ctx_of_contexts hc j]

theorem setCtx (h : s.Owned) {c : Context} (hc : c.noteVoices = (s.ctx i).noteVoices) : (s.setCtx i c).Owned := by
  refine h.of_same (fun _ => ⟨rfl, rfl⟩) fun j => ?_
  rw [State.ctx_setCtx]
  split
  · next hj => rw [hj, hc]
  · rfl

theorem updCtx (h : s.Owned) (f : Context → Context) (hf : (f (s.ctx i)).noteVoices = (s.ctx i).noteVoices) :
    (s.updCtx i f).Owned := h.setCtx hf

theorem setVoice (h : s.Owned) {v : VoiceId} {r : Voice} (hs : r.state = (s.voice v).state)
    (ho : r.owner = (s.voice v).owner) : (s.setVoice v r).Owned := by
  refine h.of_same (fun w => ?_) fun _ => rfl
  rw [State.voice_setVoice]
  split
  · next hw => rw [hw]; exact ⟨hs, ho⟩
  · exact ⟨rfl, rfl⟩

theorem forEach {α : Type} (l : List α) (f : α → State → State) (hf : ∀ a t, t.Owned → (f a t).Owned) (h : s.Owned) :
    (forEach l f s).Owned := forEach_keeps (P := State.Owned) l f hf h

end State.Owned

/-! ### Requests that leave the owner -/

theorem Voice.flagged_kept (r : Voice) (x : UpdateFlag) : (r.flagged x).state = r.state ∧ (r.flagged x).owner = r.owner := by
  unfold Voice.flagged
  split <;> exact ⟨rfl, rfl⟩

theorem Voice.retaken_kept (r : Voice) (program velocity : Nat) :
    (r.retaken program velocity).state = r.state ∧ (r.retaken program velocity).owner = r.owner := by
  unfold Voice.retaken
  split <;> exact ⟨rfl, rfl⟩

/-- An ended voice sounds no longer. -/
theorem Voice.ended_not_sounding (r : Voice) (now : Stamp) : (r.ended now).state ≠ .sounding := by
  unfold Voice.ended
  split
  · split <;> exact VoiceState.noConfusion
  all_goals
    next hs =>
    rw [hs]
    decide

namespace State.Owned

variable {s t : State} {i : Slot}

theorem flagVoices (h : s.Owned) (x : UpdateFlag) (p : VoiceId → Bool) : (s.flagVoices i x p).Owned :=
  h.forEach _ _ fun _ _ ht => ht.setVoice (Voice.flagged_kept _ x).1 (Voice.flagged_kept _ x).2

theorem flagIf (h : s.Owned) (x : UpdateFlag) (changed : Bool) : (s.flagIf i x changed).Owned := by
  unfold State.flagIf
  split
  · exact h.flagVoices x _
  · exact h

theorem retakes (h : s.Owned) (l : List VoiceId) (velocity : Nat) :
    (Machine.forEach l (fun v s => s.retakeIfRestrike v velocity) s).Owned := by
  refine h.forEach l _ fun v t ht => ?_
  unfold State.retakeIfRestrike
  split
  · split
    · exact ht.setVoice (Voice.retaken_kept _ _ _).1 (Voice.retaken_kept _ _ _).2
    · exact ht
  · exact ht

theorem applyAll (h : s.Owned) (timing : StagedTiming) : (s.applyAll i timing).Owned := by
  refine h.of_same (fun v => ?_) fun j => ?_
  · rw [State.voice_of_voices (State.applyAll_voices s i timing) v]
    exact ⟨rfl, rfl⟩
  · by_cases hj : j = i
    · rw [hj, State.applyAll_ctx]
      rfl
    · rw [State.applyAll_ctx_ne _ _ _ _ hj]

theorem offer (h : s.Owned) (n : Notice) : (s.offer n).Owned := h.frame rfl rfl

/-! ### The end of a note (R75) -/

/-- A note whose voices have been ended is gone, or another one without voices begins (R74, R75). -/
theorem endsNote (h : s.Owned) {c : Context} (hc : c.noteVoices = []) : ((s.endVoices i).setCtx i c).Owned := by
  have hvoice : ∀ v, ((s.endVoices i).setCtx i c).voice v =
      if v ∈ (s.ctx i).noteVoices then (s.voice v).ended s.timebase else s.voice v := fun v => by
    rw [State.voice_setCtx, State.endVoices_eq, State.voice_mapVoices]
  refine ⟨fun j => ?_, fun v j => ?_⟩
  · rw [State.ctx_setCtx]
    split
    · rw [hc]
      exact List.nodup_nil
    · rw [State.endVoices_ctx]
      exact h.1 j
  · rw [hvoice, State.ctx_setCtx, State.endVoices_ctx]
    by_cases hv : v ∈ (s.ctx i).noteVoices
    · obtain ⟨-, howner⟩ := (h.2 v i).2 hv
      rw [if_pos hv]
      refine iff_of_false (fun hsounding => Voice.ended_not_sounding _ _ hsounding.1) fun hmem => ?_
      by_cases hj : j = i
      · rw [if_pos hj, hc] at hmem
        cases hmem
      · rw [if_neg hj] at hmem
        have hother := ((h.2 v j).2 hmem).2
        rw [howner] at hother
        exact hj (Option.some.inj hother).symm
    · rw [if_neg hv]
      by_cases hj : j = i
      · rw [if_pos hj, hc, hj]
        exact iff_of_false (fun hs => hv ((h.2 v i).1 hs)) List.not_mem_nil
      · rw [if_neg hj]
        exact h.2 v j

theorem noteEnd (h : s.Owned) : (s.noteEnd i).Owned := h.endsNote rfl

theorem abandon (h : s.Owned) : (s.abandon i).Owned := (h.updCtx _ rfl).noteEnd

theorem enterReady (h : s.Owned) : (s.enterReady i).Owned := (h.updCtx (i := i) _ (by rfl)).applyAll _

/-- Entry to ABSENT of a performer given up. -/
theorem abandon_enterAbsent (h : s.Owned) : ((s.abandon i).enterAbsent i).Owned := by
  refine (h.abandon (i := i)).updCtx _ ?_ |>.applyAll _
  rw [State.abandon_ctx]
  rfl

end State.Owned

/-! ### Allocation (R85 to R87) -/

theorem Context.noteVoices_lose (c : Context) (p : VoiceId → Bool) :
    (c.lose p).noteVoices = c.noteVoices.filter fun v => !p v := by
  unfold Context.lose Context.noteVoices
  cases c.note with
  | none => rfl
  | some n =>
    simp only [Option.map_some, NoteRecord.present, NoteRecord.without]
    induction n.voices with
    | nil => rfl
    | cons e es ih =>
      cases e with
      | none => simpa using ih
      | some v => by_cases hp : p v = true <;> simpa [hp] using ih

/-- A voice list that grows by an answer. -/
theorem Context.noteVoices_answered {c : Context} (h : c.note.isSome = true) (answer : Option VoiceId) :
    (c.withNote fun n => { n with voices := n.voices ++ [answer] }).noteVoices = c.noteVoices ++ answer.toList := by
  obtain ⟨n, hn⟩ := Option.isSome_iff_exists.1 h
  simp only [Context.withNote, Context.noteVoices, hn, Option.map_some, NoteRecord.present, List.filterMap_append]
  cases answer <;> rfl

namespace State.Owned

variable {s t : State} {i : Slot}

/-- A voice that no list names becomes a requester's: it sounds under it and joins its list. -/
theorem joins (h : s.Owned) {v : VoiceId} (hv : (s.voice v).state ≠ .sounding) {r : Voice} (hs : r.state = .sounding)
    (ho : r.owner = some i) {c : Context} (hc : c.noteVoices = (s.ctx i).noteVoices ++ [v]) :
    ((s.setVoice v r).setCtx i c).Owned := by
  have hnone : ∀ j, v ∉ (s.ctx j).noteVoices := fun j hmem => hv ((h.2 v j).2 hmem).1
  refine ⟨fun j => ?_, fun w j => ?_⟩
  · rw [State.ctx_setCtx]
    split
    · rw [hc, List.nodup_append]
      refine ⟨h.1 i, List.nodup_singleton v, fun w hw x hx heq => ?_⟩
      rw [List.mem_singleton.1 hx] at heq
      exact hnone i (heq ▸ hw)
    · exact h.1 j
  · rw [State.voice_setCtx, State.voice_setVoice, State.ctx_setCtx, State.ctx_setVoice]
    by_cases hw : w = v
    · subst hw
      rw [if_pos rfl, hs, ho]
      by_cases hj : j = i
      · rw [if_pos hj, hc, hj]
        exact iff_of_true ⟨rfl, rfl⟩ (List.mem_append_right _ (List.mem_singleton_self w))
      · rw [if_neg hj]
        exact iff_of_false (fun heq => hj (Option.some.inj heq.2).symm) (hnone j)
    · rw [if_neg hw]
      by_cases hj : j = i
      · rw [if_pos hj, hc, hj, List.mem_append, List.mem_singleton]
        exact (h.2 w i).trans (or_iff_left hw).symm
      · rw [if_neg hj]
        exact h.2 w j

/-- A voice that its owner has lost, in list and record. -/
theorem robbed (h : s.Owned) {v : VoiceId} {o : Slot} (ho : (s.voice v).owner = some o) {r : Voice}
    (hr : r.state ≠ .sounding) : ((s.setCtx o ((s.ctx o).lose (· == v))).setVoice v r).Owned := by
  have hlist : ∀ j, ((s.setCtx o ((s.ctx o).lose (· == v))).ctx j).noteVoices =
      (s.ctx j).noteVoices.filter fun w => !(w == v) := fun j => by
    rw [State.ctx_setCtx]
    split
    · next hj => rw [hj, Context.noteVoices_lose]
    · next hj =>
      refine (List.filter_eq_self.2 fun w hw => ?_).symm
      have hne : w ≠ v := fun heq => by
        have := ((h.2 w j).2 hw).2
        rw [heq, ho] at this
        exact hj (Option.some.inj this).symm
      simpa using hne
  refine ⟨fun j => ?_, fun w j => ?_⟩
  · rw [State.ctx_setVoice, hlist]
    exact (h.1 j).filter _
  · rw [State.voice_setVoice, State.ctx_setVoice, hlist, List.mem_filter]
    by_cases hw : w = v
    · subst hw
      rw [if_pos rfl]
      exact iff_of_false (fun hs => hr hs.1) fun hmem => by simp at hmem
    · rw [if_neg hw, State.voice_setCtx, h.2 w j]
      simp [hw]

end State.Owned

/-- What an allocation request comes to: a voice that sounds for nobody, another performer's, or a denial (R85). -/
inductive State.Allocates (s : State) (i : Slot) : Option VoiceId × State → Prop where
  | unheard (v : VoiceId) (r : Voice) (h : (s.voice v).state ≠ .sounding) (hs : r.state = .sounding) (ho : r.owner = some i) :
      State.Allocates s i (some v, s.setVoice v r)
  | stolen (v : VoiceId) (o : Slot) (r : Voice) (h : (s.voice v).owner = some o) (hne : o ≠ i) (hs : r.state = .sounding)
      (ho : r.owner = some i) :
      State.Allocates s i (some v, (s.setCtx o ((s.ctx o).lose (· == v))).setVoice v r)
  | denied (n : Notice) : State.Allocates s i (none, s.offer n)

theorem State.allocate_allocates (s : State) (i : Slot) (index : Nat) (layer : Layer) (velocity : Nat) :
    s.Allocates i (s.allocate i index layer velocity) := by
  unfold State.allocate
  split
  · next v hv => exact .unheard v _ (by rw [State.freeVoice_state hv]; decide) rfl rfl
  · split
    · next v hv =>
      have hstate := State.oldestReleasing_state hv
      have hsame : s.dispossess v = s := by
        obtain h | ⟨o, hsounding, -⟩ := s.dispossess_cases v
        · exact h
        · rw [hstate] at hsounding
          cases hsounding
      rw [State.steal, hsame]
      exact .unheard v _ (by rw [hstate]; decide) rfl rfl
    · split
      · next v hv =>
        obtain ⟨hsounding, o, howner, hne, -⟩ := (s.stealable_iff i v).1 (State.victim_stealable hv)
        have hlost : s.dispossess v = s.setCtx o ((s.ctx o).lose (· == v)) := by
          simp only [State.dispossess, hsounding, howner, State.updCtx_eq]
        rw [State.steal, hlost]
        exact .stolen v o _ howner hne rfl rfl
      · exact .denied _

namespace State.Owned

variable {s t : State} {i : Slot}

/-- A layer's request keeps the law while the requester has a note (R66, R74). -/
theorem allocateLayer (h : s.Owned) (hn : (s.ctx i).note.isSome = true) (velocity index : Nat) (layer : Layer) :
    (s.allocateLayer i velocity index layer).Owned := by
  have hlist := fun answer => Context.noteVoices_answered hn answer
  have hctx := s.allocate_ctx i index layer velocity
  have hcases := s.allocate_allocates i index layer velocity
  rw [State.allocateLayer_eq, hctx]
  generalize s.allocate i index layer velocity = answer at hcases ⊢
  cases hcases with
  | unheard v r hv hs ho => exact h.joins hv hs ho (hlist (some v))
  | denied n => exact (h.offer n).setCtx ((hlist none).trans (List.append_nil _))
  | stolen v o r hv hne hs ho =>
    have hlost := h.robbed hv (r := { r with state := .free }) VoiceState.noConfusion
    have hown : ((s.setCtx o ((s.ctx o).lose (· == v))).setVoice v { r with state := .free }).ctx i = s.ctx i := by
      rw [State.ctx_setVoice, State.ctx_setCtx_ne _ _ _ _ (Ne.symm hne)]
    have hjoined := hlost.joins (i := i) (v := v) (r := r) (by rw [State.voice_setVoice_same]; exact VoiceState.noConfusion)
      hs ho (c := (s.ctx i).withNote fun n => { n with voices := n.voices ++ [some v] })
      (by rw [hown]; exact hlist (some v))
    rwa [State.setVoice_setVoice] at hjoined

theorem allocateLayers (layers : List Layer) (h : s.Owned) (hn : (s.ctx i).note.isSome = true) (velocity index : Nat) :
    (s.allocateLayers i velocity index layers).Owned := by
  induction layers generalizing s index with
  | nil => exact h
  | cons l ls ih =>
    refine ih (h.allocateLayer hn velocity index l) ?_ (index + 1)
    rw [State.allocateLayer_eq, State.ctx_setCtx_same, State.allocate_ctx, Option.isSome_map]
    exact hn

/-! ### Notes that start and move (R66, R69 to R74) -/

theorem plannerStart (h : s.Owned) (hn : (s.ctx i).note = none) (pitch velocity : Nat) :
    (s.plannerStart i pitch velocity).Owned := by
  refine allocateLayers _ (h.updCtx _ ?_) ?_ velocity 1
  · simp only [Context.noteVoices, Context.beginNote, hn]
    rfl
  · rw [State.updCtx_eq, State.ctx_setCtx_same]
    rfl

theorem noteStart (h : s.Owned) (hn : (s.ctx i).note = none) (attackTime : Nat) (g : Gesture) :
    (s.noteStart i attackTime g).Owned := by
  obtain ⟨velocity, heq⟩ := s.noteStart_eq i attackTime g
  rw [heq]
  refine Owned.updCtx (plannerStart (h.setCtx (by rfl)) ?_ _ velocity) _ (by rfl)
  rwa [State.ctx_setCtx_same]

theorem beginOnset (h : s.Owned) (hn : (s.ctx i).note = none) (g : Gesture) : (s.beginOnset i g).Owned := by
  by_cases hw : (s.ctx i).settings.attackWindow = 0
  · rw [State.beginOnset_prompt g hw]
    exact noteStart (h.setCtx (by rfl)) (by rwa [State.ctx_setCtx_same]) 0 g
  · rw [State.beginOnset_window g hw]
    exact h.setCtx rfl

theorem differentZone (h : s.Owned) (velocity pitch : Nat) (z : Option (Nat × Zone)) :
    (s.differentZone i velocity pitch z).Owned := by
  refine allocateLayers _ (h.endsNote rfl) ?_ velocity 1
  rw [State.ctx_setCtx_same]
  rfl

theorem retargetGlide (h : s.Owned) (cents glideTime : Nat) : (s.retargetGlide i cents glideTime).Owned := by
  unfold State.retargetGlide
  dsimp only
  split
  · exact (h.updCtx _ (by rfl)).flagVoices _ _
  · exact h.updCtx _ (by rfl)

end State.Owned

/-- A note that takes another pitch keeps its voices. -/
theorem Context.noteVoices_withPitch (c : Context) (pitch : Nat) :
    (c.withNote ({ · with pitch := pitch })).noteVoices = c.noteVoices := by
  unfold Context.withNote Context.noteVoices
  cases c.note <;> rfl

namespace State.Owned

variable {s t : State} {i : Slot}

theorem inZone (h : s.Owned) (velocity pitch glideTime : Nat) : (s.inZone i velocity pitch glideTime).Owned :=
  ((h.updCtx (i := i) _ (Context.noteVoices_withPitch _ pitch)).retakes _ velocity).retargetGlide _ _

theorem transition (h : s.Owned) (pitch : Nat) : (s.transition i pitch).Owned := by
  unfold State.transition
  split
  · exact h
  · split
    · exact h.updCtx _ (Context.noteVoices_withPitch _ pitch)
    · split
      · exact h.inZone _ _ _
      · exact h.differentZone _ _ _
    · exact h.differentZone _ _ _
    · exact h.differentZone _ _ _

theorem settleCommit (h : s.Owned) (g : Gesture) : (s.settleCommit i g).Owned := by
  unfold State.settleCommit
  split
  · exact h
  · split
    · exact h
    · exact (h.transition _).updCtx _ (by rfl)

theorem glideStep (h : s.Owned) : (s.glideStep i).Owned := by
  unfold State.glideStep
  dsimp only
  split
  · split
    · exact (h.updCtx _ (by rfl)).flagVoices _ _
    · exact h.updCtx _ (by rfl)
  · exact h

/-! ### The taking of a frame -/

theorem judgePattern (h : s.Owned) (g : Gesture) : (s.judgePattern i g).Owned := by
  unfold State.judgePattern
  dsimp only
  split
  · split
    · split
      · exact h.settleCommit g
      · exact h.updCtx _ (by rfl)
    · split
      · exact (h.updCtx _ (by rfl)).settleCommit g
      · exact h.updCtx _ (by rfl)
    all_goals exact h
  · exact h

theorem express (h : s.Owned) (g : Gesture) : (s.express i g).Owned := by
  unfold State.express
  split
  · exact ((h.flagIf _ _).flagIf _ _).flagIf _ _
  · exact h

theorem attackFrame (h : s.Owned) (hn : (s.ctx i).note = none) (peakDrop : Nat) (g : Gesture) :
    (s.attackFrame i peakDrop g).Owned := by
  unfold State.attackFrame
  split
  · exact h
  · dsimp only
    split
    · exact noteStart (h.updCtx _ (by rfl)) (by rwa [State.updCtx_eq, State.ctx_setCtx_same]) _ g
    · exact h.updCtx _ (by rfl)

theorem crossing (h : s.Owned) (hn : (s.ctx i).note = none) (g : Gesture) : (s.crossing i g).Owned := by
  unfold State.crossing
  split
  · exact h.updCtx _ (by rfl)
  · exact h.beginOnset hn g

theorem judgeBreath (h : s.Owned) (hn : (s.ctx i).state.inNote = false → (s.ctx i).note = none) (g : Gesture) :
    (s.judgeBreath i g).Owned := by
  unfold State.judgeBreath
  split
  · exact h
  · split
    · exact h
    · next hs =>
      split
      · exact h.crossing (hn (by rw [hs]; rfl)) g
      · exact h
    · next hs =>
      split
      · exact (h.updCtx (i := i) _ (by rfl)).enterReady
      · exact h.attackFrame (hn (by rw [hs]; rfl)) _ g
    all_goals
      split
      · exact ((h.noteEnd (i := i)).updCtx (i := i) _ (by rfl)).enterReady
      · exact h

theorem takeFrame (h : s.Owned) (hn : (s.ctx i).state.inNote = false → (s.ctx i).note = none) (g : Gesture) :
    (s.takeFrame i g).Owned := by
  have hbreath := h.judgeBreath hn g
  have hjudged : (s.judged i g).Owned := by
    unfold State.judged
    split
    · exact hbreath.judgePattern g
    · exact hbreath
  have hexpressed : (s.expressed i g).Owned := by
    unfold State.expressed
    split
    · exact hjudged.express g
    · exact hjudged
  rw [State.takeFrame_eq]
  exact hexpressed.setCtx rfl

end State.Owned

/-- Outside SOUNDING and SETTLING a performer has no note. -/
theorem Context.note_of_wf {c : Context} (h : c.wf = true) (hs : c.state.inNote = false) : c.note = none := by
  cases hn : c.note with
  | none => rfl
  | some n =>
    obtain hc | hc := inNote_of h (.inl (by rw [hn]; rfl)) <;> rw [hc] at hs <;> cases hs

namespace State.Owned

variable {s t : State} {i : Slot}

theorem gestureAt (h : s.Owned) (hwf : (s.ctx i).wf = true) (g : Gesture) : (s.gestureAt i g).Owned := by
  unfold State.gestureAt
  dsimp only
  split
  · split
    · next hs =>
      refine Owned.takeFrame (((h.updCtx _ (by rfl)).applyAll _).offer _) (fun _ => ?_) g
      rw [State.ctx_offer, State.applyAll_ctx, State.updCtx_eq, State.ctx_setCtx_same]
      exact Context.note_of_wf (c := s.ctx i) hwf (by rw [hs]; rfl)
    all_goals
      refine (h.updCtx _ (by rfl)).takeFrame (fun hs => ?_) g
      rw [State.updCtx_eq, State.ctx_setCtx_same] at hs ⊢
      exact Context.note_of_wf (c := s.ctx i) hwf hs
  · exact h

/-- Every event at a context keeps the law (R61, R80). -/
theorem event (h : s.Owned) (hwf : (s.ctx i).wf = true) (hevent : s.SectionEvent i t) : t.Owned := by
  cases hevent with
  | gesture g _ => exact h.gestureAt hwf g
  | glideStep => exact h.glideStep
  | settleExpiry =>
    unfold State.settleExpiry
    dsimp only
    split
    · split
      · exact (h.updCtx _ (by rfl)).settleCommit _
      · exact h.updCtx _ (by rfl)
    · exact h
  | attackExpiry =>
    unfold State.attackExpiry
    dsimp only
    split
    · exact h
    · split
      · next hs _ =>
        refine noteStart ((h.updCtx _ (by rfl)).updCtx _ (by rfl)) ?_ _ _
        simp only [State.updCtx_eq, State.ctx_setCtx_same]
        exact Context.note_of_wf (c := s.ctx i) hwf (by rw [hs]; rfl)
      · exact h.updCtx _ (by rfl)
  | guardExpiry =>
    unfold State.guardExpiry
    dsimp only
    split
    · split
      · next hs _ =>
        split
        · refine beginOnset (h.updCtx _ (by rfl)) ?_ _
          rw [State.updCtx_eq, State.ctx_setCtx_same]
          exact Context.note_of_wf (c := s.ctx i) hwf (by rw [hs]; rfl)
        · exact h.updCtx _ (by rfl)
      · exact h.updCtx _ (by rfl)
    · exact h
  | silenceExpiry =>
    unfold State.silenceExpiry
    dsimp only
    split
    · split
      · exact h.updCtx _ (by rfl)
      all_goals exact h.abandon_enterAbsent.offer _
    · exact h
  | phraseExpiry =>
    unfold State.phraseExpiry
    dsimp only
    split
    · split
      · exact (h.updCtx _ (by rfl)).applyAll _
      all_goals exact h.updCtx _ (by rfl)
    · exact h

end State.Owned

end Sys2Proof.Machine
end

section
/-! PROOFS. Voice lists and the quiet of a quiesce over every step (R61, R80, R107, R175, R178). -/

namespace Sys2Proof.Machine

/-! ### The quiet of a quiesce (R61, R175) -/

/-- While a quiesce is in progress no performer has an onset or a note. -/
def State.Quiet (s : State) : Prop := s.quiesce.phase = .quiescing → ∀ i, (s.ctx i).state.active = false

/-- An inactive performer has no note. -/
theorem Context.note_of_inactive {c : Context} (h : c.wf = true) (hs : c.state.active = false) : c.note = none := by
  refine Context.note_of_wf h ?_
  obtain hc | hc := Context.not_active_iff.1 hs <;> rw [hc] <;> rfl

theorem Context.noteVoices_of_none {c : Context} (h : c.note = none) : c.noteVoices = [] := by
  rw [Context.noteVoices, h]

/-- Without onsets and notes nothing sounds, so no START or RETAKE is owed (R80, R107). -/
theorem State.owesStart_of_inactive {s : State} (hpool : s.Pool) (hcontexts : s.Contexts) (howned : s.Owned)
    (h : ∀ i, (s.ctx i).state.active = false) (v : VoiceId) : (s.voice v).owesStart = false := by
  refine Bool.eq_false_iff.2 fun howes => ?_
  have hwf := (hpool.1 v).1
  have hsounding := Voice.sounding_of_owesStart hwf howes
  obtain ⟨⟨howner, -⟩, -⟩ := (Voice.wf_sounding _ hsounding).1 hwf
  obtain ⟨i, hi⟩ := Option.isSome_iff_exists.1 howner
  have hmem := (howned.2 v i).1 ⟨hsounding, hi⟩
  rw [Context.noteVoices_of_none (Context.note_of_inactive (hcontexts i) (h i))] at hmem
  cases hmem

/-- Pool, contexts and voice lists within their laws, and the quiet of a quiesce. -/
def State.Sounds (s : State) : Prop := s.Pool ∧ s.Contexts ∧ s.Owned ∧ s.Quiet

theorem State.Sounds.atRest {s : State} (h : s.Sounds) : s.atRestInQuiesce = true := by
  obtain ⟨hpool, hcontexts, howned, hquiet⟩ := h
  unfold State.atRestInQuiesce
  split
  · next hq =>
    simp only [Bool.and_eq_true, List.all_eq_true, slots, voiceIds, List.mem_finRange, forall_true_left,
      Bool.not_eq_true']
    exact ⟨hquiet hq, State.owesStart_of_inactive hpool hcontexts howned (hquiet hq)⟩
  · rfl

theorem State.quiet_of_atRest {s : State} (h : s.atRestInQuiesce = true) : s.Quiet := fun hq => by
  unfold State.atRestInQuiesce at h
  rw [hq] at h
  simp only [Bool.and_eq_true, List.all_eq_true, slots, List.mem_finRange, forall_true_left, Bool.not_eq_true'] at h
  exact h.1

/-- A change that keeps every performer's activity. -/
theorem State.Quiet.of_same {s t : State} (h : s.Quiet) (hq : t.quiesce.phase = s.quiesce.phase)
    (hc : ∀ i, (s.ctx i).state.active = false → (t.ctx i).state.active = false) : t.Quiet :=
  fun hphase i => hc i (h (hq.symm.trans hphase) i)

/-- In a quiesce no event at a context begins anything: the timers of notes and onsets do not run there. -/
theorem State.inactive_event {s t : State} {i : Slot} (hq : s.quiesce.phase = .quiescing) (hwf : (s.ctx i).wf = true)
    (hs : (s.ctx i).state.active = false) (h : s.SectionEvent i t) : (t.ctx i).state.active = false := by
  have hne : ∀ st : PerformerState, st.active = true → (s.ctx i).state ≠ st := fun st hst heq => by
    rw [heq, hst] at hs
    cases hs
  cases h with
  | gesture g hidle => rw [hidle] at hq; cases hq
  | settleExpiry =>
    unfold State.settleExpiry
    dsimp only
    split
    · next hrun => exact absurd (Context.settling_of_settle hwf hrun) (hne _ rfl)
    · exact hs
  | attackExpiry =>
    unfold State.attackExpiry
    dsimp only
    split
    · exact hs
    · next hrun => exact absurd (Context.onset_of_attack hwf (by rw [hrun]; rfl)) (hne _ rfl)
  | guardExpiry =>
    have hholds : ∀ g, s.deferredHolds i g = false := fun g => Bool.eq_false_iff.2 fun hholds => by
      obtain ⟨-, -, -, -, hidle, -⟩ := (State.deferredHolds_iff s i g).1 hholds
      rw [hidle] at hq
      cases hq
    unfold State.guardExpiry
    simp only [hholds, Bool.false_eq_true, if_false, State.updCtx_eq]
    split
    · split <;> rw [State.ctx_setCtx_same] <;> exact hs
    · exact hs
  | silenceExpiry =>
    by_cases hrun : (s.ctx i).timers.silence = none
    · have : s.silenceExpiry i = s := by simp only [State.silenceExpiry, Timer.running, hrun]; rfl
      rwa [this]
    · by_cases hp : (s.ctx i).state = .absent
      · obtain ⟨-, -, -, htimers, -⟩ := (Context.wf_absent _ hp).1 hwf
        exact absurd (congrArg Timers.silence htimers) hrun
      · obtain ⟨-, -, -, -, hctx⟩ := s.abandon_enterAbsent_spec i
        rw [s.silenceExpiry_present i hp hrun, State.ctx_offer, hctx]
        rfl
  | phraseExpiry =>
    unfold State.phraseExpiry
    dsimp only
    split
    · next hrun =>
      have hready := Context.ready_of_guard_or_phrase hwf (.inr hrun)
      simp only [hready]
      rw [State.applyAll_ctx, State.updCtx_eq, State.ctx_setCtx_same]
      exact hs
    · exact hs
  | glideStep =>
    unfold State.glideStep
    dsimp only
    split
    · next hrun => obtain h | h := Context.inNote_of hwf (.inr hrun) <;> exact absurd h (hne _ rfl)
    · exact hs

/-! ### The moves of the law -/

namespace State.Sounds

variable {s t : State}

theorem frame (h : s.Sounds) (hc : t.contexts = s.contexts) (hv : t.voices = s.voices) (he : t.engines = s.engines)
    (hq : t.quiesce.phase = s.quiesce.phase) : t.Sounds := by
  obtain ⟨hpool, hcontexts, howned, hquiet⟩ := h
  refine ⟨State.poolLaw.frame hpool hc hv he hq, hcontexts.of_contexts hc, howned.frame hv hc, hquiet.of_same hq fun i => ?_⟩
  rw [State.ctx_of_contexts hc i]
  exact id

theorem event {i : Slot} (h : s.Sounds) (hevent : s.SectionEvent i t) : t.Sounds := by
  obtain ⟨hpool, hcontexts, howned, hquiet⟩ := h
  have hsection := hevent.path.onlySection
  have hphase : t.quiesce.phase = s.quiesce.phase := by rw [hsection]
  refine ⟨State.poolLaw.event hevent hpool, hcontexts.event hevent, howned.event (hcontexts i) hevent, fun hq j => ?_⟩
  have hq := hphase.symm.trans hq
  by_cases hj : j = i
  · rw [hj]
    exact State.inactive_event hq (hcontexts i) (hquiet hq i) hevent
  · obtain ⟨note, hctx, -⟩ := hevent.path.others hj
    rw [hctx]
    exact hquiet hq j

theorem voice {v : VoiceId} {r : Voice} (h : s.Sounds) (hr : (s.voice v).Serves r) : (s.setVoice v r).Sounds := by
  obtain ⟨hpool, hcontexts, howned, hquiet⟩ := h
  refine ⟨State.poolLaw.voice hr hpool, hcontexts.of_contexts rfl, ?_, hquiet.of_same rfl fun _ => id⟩
  cases hr with
  | struck _ | endSent _ _ | updateSent _ _ | timerStopped _ => exact howned.setVoice rfl rfl
  | tailOver hs _ =>
    have hnone : ∀ i, v ∉ (s.ctx i).noteVoices := fun i hmem => by
      have := ((howned.2 v i).2 hmem).1
      rw [hs] at this
      cases this
    refine ⟨howned.1, fun w i => ?_⟩
    rw [State.voice_setVoice]
    split
    · next hw =>
      rw [hw]
      exact iff_of_false (fun h => by cases h.1) (hnone i)
    · exact howned.2 w i

theorem hello {count : Nat} (e : EngineId) (hcount : 1 ≤ count ∧ count ≤ 24) (h : s.Sounds) : (s.hello e count).Sounds := by
  obtain ⟨hpool, hcontexts, howned, hquiet⟩ := h
  have hctx : ∀ i, (s.hello e count).ctx i = (s.ctx i).lose fun v => engineOf v = e := fun i => by simp [State.hello]
  have hvoice : ∀ v, (s.hello e count).voice v =
      if engineOf v = e then (s.voice v).afterHello (voiceNumber v) count else s.voice v := fun v => by simp [State.hello]
  refine ⟨hpool.hello e hcount, hcontexts.hello e count, ⟨fun i => ?_, fun v i => ?_⟩, ?_⟩
  · rw [hctx, Context.noteVoices_lose]
    exact (howned.1 i).filter _
  · rw [hctx, Context.noteVoices_lose, hvoice, List.mem_filter]
    by_cases hv : engineOf v = e
    · rw [if_pos hv]
      exact iff_of_false (fun hs => by cases hs.2) fun hmem => by simp [hv] at hmem
    · rw [if_neg hv, howned.2 v i]
      simp [hv]
  · refine hquiet.of_same ?_ fun i => ?_
    · simp only [State.hello]
      rw [State.onlySection_offer]
      rfl
    · rw [hctx]
      exact id

/-- A change at one context beside its note and its state. -/
theorem setCtx {i : Slot} {c : Context} (h : s.Sounds) (hc : c.wf = true) (hnote : c.note = (s.ctx i).note)
    (hstate : c.state = (s.ctx i).state) : (s.setCtx i c).Sounds := by
  obtain ⟨hpool, hcontexts, howned, hquiet⟩ := h
  refine ⟨hpool.of_voices (fun _ => Voice.keepsTable_refl) rfl, hcontexts.setCtx hc,
    howned.setCtx (Context.noteVoices_congr hnote), hquiet.of_same rfl fun j hj => ?_⟩
  rw [State.ctx_setCtx]
  split
  · next hji => rwa [hstate, ← hji]
  · exact hj

theorem bind {i : Slot} {k : TableKind} {target : Option BlockId} (hpool : t.Pool) (h : s.Sounds)
    (hbind : s.BindsTo i k target t) : t.Sounds := by
  have hwf := h.2.1.bind hbind
  have hctx : ∀ {c : Context}, (s.setCtx i c).Contexts → c.note = (s.ctx i).note → c.state = (s.ctx i).state →
      (s.setCtx i c).Sounds := fun {c} hcontexts => h.setCtx (by
    have := hcontexts i
    rwa [State.ctx_setCtx_same] at this)
  cases hbind with
  | active | atRest | atPhrase | atNextPhrase => exact hctx hwf rfl rfl
  | abandoned hactive =>
    obtain ⟨-, -, howned, hquiet⟩ := h
    refine ⟨hpool, hwf, ((howned.setCtx (by rfl)).abandon).enterReady, fun hq => ?_⟩
    have hphase : s.quiesce.phase = .quiescing := by
      rwa [((State.path_abandon _ i).trans (State.path_enterReady _ i)).onlySection] at hq
    have := hquiet hphase i
    rw [hactive] at this
    cases this

theorem disable (h : s.Sounds) (i : Slot) : (s.disable i).Sounds := by
  obtain ⟨hpool, hcontexts, howned, hquiet⟩ := h
  refine ⟨State.Pool.path (s.path_disable i) hpool, hcontexts.disable i, ?_, ?_⟩
  · by_cases hp : (s.ctx i).state = .absent
    · rw [s.disable_not_present i (.inl hp)]
      exact howned.setCtx rfl
    · rw [s.disable_present i hp (Context.enabled_of_present (hcontexts i) hp)]
      exact (howned.setCtx (by rfl)).abandon_enterAbsent
  · have hsection := (s.path_disable i).onlySection
    refine hquiet.of_same (by rw [hsection]) fun j hj => ?_
    by_cases hji : j = i
    · subst hji
      by_cases hp : (s.ctx j).state = .absent
      · rw [s.disable_not_present j (.inl hp), State.ctx_setCtx_same]
        exact hj
      · obtain ⟨-, -, -, hctx, -⟩ := s.disable_present_spec j hp (Context.enabled_of_present (hcontexts j) hp)
        rw [hctx]
        rfl
    · obtain ⟨note, hctx, -⟩ := (s.path_disable i).others hji
      rw [hctx]
      exact hj

theorem prompt (h : s.Sounds) (hprompt : s.Prompt t) : t.Sounds := by
  have hpool : t.Pool := State.Pool.prompt hprompt h.1
  cases hprompt with
  | unchanged => exact h
  | arbiter | mask => exact h.frame rfl rfl rfl rfl
  | disable i => exact h.disable i
  | bind i k target timing _ => exact bind hpool h (s.bindAt_bindsTo i k target timing)
  | tailLimit e limit _ =>
    obtain ⟨-, hcontexts, howned, hquiet⟩ := h
    exact ⟨hpool, hcontexts.of_contexts rfl, howned.frame rfl rfl, hquiet.of_same rfl fun _ => id⟩
  | settings i pairs hpairs =>
    exact h.setCtx (Context.wf_settings (h.2.1 i)
      (Settings.wf_putAll (pairsOk_values hpairs) (Context.sound_of_wf (h.2.1 i)).1)) rfl rfl
  | enable i => exact h.setCtx (Context.wf_enabled (h.2.1 i)) rfl rfl

end State.Sounds

/-! ### The beginning and the end of a quiesce (R175, R178) -/

/-- The beginning of a quiesce leaves the performers it has come to without onset and note (R175). -/
theorem State.inactive_quiesceContexts (l : List Slot) (s : State) (i : Slot)
    (h : i ∈ l ∨ (s.ctx i).state.active = false) :
    ((forEach l (fun i s => s.quiesceContext i) s).ctx i).state.active = false := by
  have hone : ∀ (s : State) (j : Slot), i = j ∨ (s.ctx i).state.active = false →
      ((s.quiesceContext j).ctx i).state.active = false := fun s j hj => by
    obtain ⟨-, -, hothers, hctx⟩ := s.quiesceContext_spec j
    by_cases hij : i = j
    · subst hij
      rw [hctx]
      split
      · rfl
      · next hactive => exact Bool.eq_false_iff.2 hactive
    · rw [hothers i hij]
      exact hj.resolve_left hij
  induction l generalizing s with
  | nil => exact h.resolve_left List.not_mem_nil
  | cons j l ih =>
    refine ih (s.quiesceContext j) ?_
    rw [List.mem_cons, or_assoc] at h
    obtain h | h | h := h
    · exact .inr (hone s j (.inl h))
    · exact .inl h
    · exact .inr (hone s j (.inr h))

theorem State.Owned.quiesceContext {s : State} (h : s.Owned) (i : Slot) : (s.quiesceContext i).Owned := by
  unfold State.quiesceContext
  split
  · exact h.abandon.enterReady
  · exact h

namespace State.Sounds

variable {s t : State}

theorem begun (h : s.Sounds) (kind : ResetKind) (limit : Nat) : (s.quiesceBegin kind limit).Sounds := by
  obtain ⟨hpool, hcontexts, howned, -⟩ := h
  refine ⟨hpool.begun kind limit, hcontexts.begun kind limit, ?_⟩
  have hkept := howned.frame (t := s.setQuiesce { s.quiesce with phase := .quiescing, kind := some kind }) rfl rfl
  have howned' := hkept.forEach slots (fun i s => s.quiesceContext i) fun i t ht => ht.quiesceContext i
  have hquiet := fun i => State.inactive_quiesceContexts slots
    (s.setQuiesce { s.quiesce with phase := .quiescing, kind := some kind }) i (.inl (List.mem_finRange i))
  unfold State.quiesceBegin
  dsimp only
  generalize forEach slots _ _ = u at howned' hquiet ⊢
  exact ⟨howned'.frame rfl rfl, fun _ => hquiet⟩

/-- Where nothing sounds and no note is, the voice lists are lawful. -/
theorem owned_of_silent (hv : ∀ v, (s.voice v).state ≠ .sounding) (hc : ∀ i, (s.ctx i).note = none) : s.Owned := by
  refine ⟨fun i => ?_, fun v i => ?_⟩ <;> rw [Context.noteVoices_of_none (hc i)]
  · exact List.nodup_nil
  · exact iff_of_false (fun h => hv v h.1) List.not_mem_nil

theorem ended {kind : ResetKind} {hushed : EngineSet} (hreset : s.resetBy t kind hushed) (h : s.Sounds) : t.Sounds := by
  obtain ⟨hpool, hcontexts, -, -⟩ := h
  refine ⟨State.Pool.ended hreset hpool, hcontexts.ended hreset, ?_, fun hq => ?_⟩
  · obtain ⟨-, hparts⟩ := hreset
    cases kind with
    | sectionOnly =>
      obtain ⟨hctx, hvoice, -⟩ := hparts
      refine owned_of_silent (fun v => ?_) fun i => by rw [hctx i]
      rw [hvoice v]
      dsimp only
      split <;> exact VoiceState.noConfusion
    | full =>
      obtain ⟨hctx, hvoice, -⟩ := hparts
      exact owned_of_silent (fun v => by rw [hvoice v]; exact VoiceState.noConfusion) fun i => by rw [hctx i]; rfl
  · rw [hreset.1] at hq
    cases hq

theorem advance (h : s.Sounds) : s.advance.Sounds := by
  obtain ⟨hpool, hcontexts, howned, hquiet⟩ := h
  obtain ⟨-, -, -, -, -, hquiesce, hctx, hvoice⟩ := s.advance_frame
  refine ⟨hpool.advance, hcontexts.advance, howned.of_same (fun v => ?_) fun i => ?_, hquiet.of_same ?_ fun i => ?_⟩
  · obtain h | h := hvoice v <;> rw [h] <;> exact ⟨rfl, rfl⟩
  · obtain h | h := hctx i <;> rw [h]
    rfl
  · obtain h | h := hquiesce <;> rw [h]
  · obtain h | h := hctx i <;> rw [h] <;> exact id

theorem cleared (s : State) (p : Power) : (s.cleared p).Sounds := by
  have hctx : ∀ i, (s.cleared p).ctx i = Context.initial := fun i => Vector.getElem_replicate i.isLt
  have hvoice : ∀ v, (s.cleared p).voice v = Voice.initial := fun v => Vector.getElem_replicate v.isLt
  refine ⟨State.poolLaw.cleared s p, s.contexts_cleared p, owned_of_silent (fun v => ?_) fun i => ?_, fun hq => by cases hq⟩
  · rw [hvoice v]
    exact VoiceState.noConfusion
  · rw [hctx i]
    rfl

end State.Sounds

theorem State.soundsLaw : SectionLaw State.Sounds where
  frame h hc hv he hq := h.frame hc hv he hq
  event hevent h := h.event hevent
  voice hr h := h.voice hr
  engine hr h := by
    obtain ⟨hpool, hcontexts, howned, hquiet⟩ := h
    exact ⟨State.poolLaw.engine hr hpool, hcontexts.of_contexts rfl, howned.frame rfl rfl, hquiet.of_same rfl fun _ => id⟩
  hello e hcount h := h.hello e hcount
  prompt hprompt h := h.prompt hprompt
  begun kind limit h := h.begun kind limit
  ended hreset h := h.ended hreset
  hushed x h := by
    obtain ⟨hpool, hcontexts, howned, -⟩ := h
    exact ⟨State.poolLaw.hushed x hpool, hcontexts.of_contexts rfl, howned.frame rfl rfl, fun hq => by cases hq⟩
  advance h := h.advance
  cleared s p := State.Sounds.cleared s p

/-- Settles O9: a voice joins a list as it starts to sound and leaves it as it is ended or lost, and nothing begins in a
quiesce. -/
theorem ownershipLawKept : Obligations.OwnershipLawKept := by
  unfold Obligations.OwnershipLawKept
  intro s t hpool hcontexts _ howned hrest hstep
  have h : s.Sounds := ⟨s.poolWf_iff.1 hpool, s.contextsWf_iff.1 hcontexts, s.ownedWf_iff.1 howned,
    State.quiet_of_atRest hrest⟩
  have ht := State.soundsLaw.ofStep h hstep
  exact ⟨t.ownedWf_iff.2 ht.2.2.1, ht.atRest⟩

end Sys2Proof.Machine
end

section
/-! PROOFS. The laws of one block of Table Memory: what its state says of its content, over the start and the completion of every
operation (R121 to R125, R128 to R130, R134, R139). -/

namespace Sys2Proof.Machine

/-! ### Positions of a run (R122, R129, R164) -/

theorem mem_putCell_or {p : Nat} {x : Image} {cells : List Cell} {c : Cell} (h : c ∈ putCell p x cells) :
    c = (p, x) ∨ c ∈ cells := by
  induction cells with
  | nil => exact .inl (List.mem_singleton.1 h)
  | cons d ds ih =>
    unfold putCell at h
    split at h
    · exact (List.mem_cons.1 h).imp id id
    · split at h
      · exact (List.mem_cons.1 h).imp id (List.mem_cons_of_mem _)
      · obtain h | h := List.mem_cons.1 h
        · exact .inr (h ▸ List.mem_cons_self)
        · exact (ih h).imp id (List.mem_cons_of_mem _)

/-- The cells of a run and those before it have the length their positions have. -/
theorem putRun_fits {k : TableKind} {first : Nat} {images : List Image} {cells : List Cell}
    (hrun : runFits k first images = true) (hcells : ∀ c ∈ cells, c.2.length = k.imageLength c.1) :
    ∀ c ∈ putRun first images cells, c.2.length = k.imageLength c.1 := by
  induction images generalizing first cells with
  | nil => exact hcells
  | cons x xs ih =>
    rw [runFits, Bool.and_eq_true, beq_iff_eq] at hrun
    refine ih hrun.2 fun c hc => ?_
    obtain rfl | hc := mem_putCell_or hc
    · exact hrun.1
    · exact hcells c hc

theorem cutImages_fits {k : TableKind} {n first : Nat} {bytes : List Byte} {images : List Image}
    (h : cutImages k n first bytes = some images) : runFits k first images = true := by
  induction n generalizing first bytes images with
  | zero =>
    cases bytes with
    | nil => cases h; rfl
    | cons x xs => cases h
  | succ n ih =>
    cases bytes with
    | nil => cases h; rfl
    | cons x xs =>
      simp only [cutImages] at h
      split at h
      · cases h
      · next hlength =>
        obtain ⟨rest, hrest, rfl⟩ := Option.map_eq_some_iff.1 h
        rw [runFits, ih hrest, Bool.and_true, beq_iff_eq, List.length_take]
        omega

theorem TableKind.imageLength_pos (k : TableKind) (position : Nat) : 0 < k.imageLength position := by
  unfold TableKind.imageLength
  split <;> cases k <;> decide

/-- The first image of a run that is cut begins as the bytes do. -/
theorem cutImages_head {k : TableKind} {n first : Nat} {x : Byte} {xs : List Byte} {images : List Image}
    (h : cutImages k n first (x :: xs) = some images) : ∃ y ys, images = (x :: y) :: ys := by
  cases n with
  | zero => cases h
  | succ n =>
    simp only [cutImages] at h
    split at h
    · cases h
    · obtain ⟨rest, -, rfl⟩ := Option.map_eq_some_iff.1 h
      obtain ⟨m, hm⟩ : ∃ m, k.imageLength first = m + 1 := ⟨_, (Nat.succ_pred_eq_of_pos (k.imageLength_pos first)).symm⟩
      rw [hm, List.take_succ_cons]
      exact ⟨_, _, rfl⟩

theorem firstPosition_none {first last : Nat} {p : Nat → Bool} (h : firstPosition first last p = none) {n : Nat}
    (hfirst : first ≤ n) (hlast : n ≤ last) : p n = false := by
  unfold firstPosition at h
  rw [List.find?_eq_none] at h
  exact Bool.eq_false_iff.2 (h n (List.mem_range'_1.2 ⟨hfirst, by omega⟩))

namespace Block

variable {b : Block}

/-! ### The laws of a block, state by state -/

theorem wf_iff (b : Block) : b.wf = true ↔ cellsWf b.cells = true ∧ b.eraseCount ≤ 1000 ∧
    (b.locked = true → b.state = .valid) ∧ b.contentOk = true := by
  unfold wf
  simp only [Bool.and_eq_true, decide_eq_true_eq, Bool.or_eq_true, Bool.not_eq_true', beq_iff_eq, ← Bool.not_eq_true,
    ← imp_iff_not_or, and_assoc]

theorem contentOk_blank (h : b.state = .blank) : b.contentOk = true ↔ b.kind = none ∧ b.cells = [] := by
  simp only [contentOk, h, Bool.and_eq_true, Option.isNone_iff_eq_none, List.isEmpty_iff]

theorem contentOk_opened (h : b.state = .opened) : b.contentOk = true ↔ b.imagesFit = true ∧ b.kindFromHeader = true := by
  simp only [contentOk, h, Bool.and_eq_true]

theorem contentOk_valid (h : b.state = .valid) :
    b.contentOk = true ↔ b.imagesFit = true ∧ b.kindFromHeader = true ∧ b.wholeTable = true := by
  simp only [contentOk, h, Bool.and_eq_true, and_assoc]

theorem contentOk_incomplete (h : b.state = .incomplete) : b.contentOk = true ↔ b.kind = none := by
  simp only [contentOk, h, Option.isNone_iff_eq_none]

theorem imagesFit_iff : b.imagesFit = true ↔ ∃ k, b.kind = some k ∧ ∀ c ∈ b.cells, c.2.length = k.imageLength c.1 := by
  unfold imagesFit
  cases b.kind <;> simp

theorem kindFromHeader_iff :
    b.kindFromHeader = true ↔ ∃ h k, b.header = some h ∧ b.kind = some k ∧ tableKindOf (byteAt h 0) = some k := by
  unfold kindFromHeader
  cases b.header with
  | none => simp
  | some h =>
    cases b.kind with
    | none => simp
    | some k =>
      simp only [Option.isSome_some, Bool.true_and, beq_iff_eq]
      constructor
      · intro htable
        exact ⟨h, k, rfl, rfl, htable.symm⟩
      · rintro ⟨h', k', hh, hk, htable⟩
        cases hh
        cases hk
        exact htable.symm

/-! ### The start of an operation (R127, R128) -/

theorem begun_eq (b : Block) (op : StoreOp) : b.begun op = { b with
    op := some op, eraseCount := b.eraseCount + (if op = .erase then 1 else 0) } := by
  cases op <;> rfl

theorem contentOk_begun (b : Block) (op : StoreOp) : (b.begun op).contentOk = b.contentOk := by
  rw [begun_eq]
  rfl

theorem wf_begun (h : b.wf = true) {op : StoreOp} (hcount : op = .erase → b.eraseCount < 1000) : (b.begun op).wf = true := by
  rw [wf_iff] at h ⊢
  obtain ⟨hcells, herased, hlocked, hcontent⟩ := h
  rw [contentOk_begun, begun_eq]
  refine ⟨hcells, ?_, hlocked, hcontent⟩
  dsimp only
  split
  · next hop => exact hcount hop
  · exact herased

theorem wf_unlocked (h : b.wf = true) : ({ b with locked := false } : Block).wf = true := by
  rw [wf_iff] at h ⊢
  obtain ⟨hcells, herased, -, hcontent⟩ := h
  exact ⟨hcells, herased, fun hl => (by cases hl), hcontent⟩

/-! ### Completions (R128 to R130, R134, R139) -/

theorem wf_erased (h : b.wf = true) (hlocked : b.locked = false) : b.erased.wf = true := by
  rw [wf_iff] at h ⊢
  exact ⟨cellsWf_nil, h.2.1, fun hl => absurd (hlocked.symm.trans hl) Bool.noConfusion, (contentOk_blank rfl).2 ⟨rfl, rfl⟩⟩

theorem wf_committed (h : b.wf = true) (hstate : b.state = .opened) (hwhole : b.wholeTable = true) :
    b.committed.wf = true := by
  rw [wf_iff] at h ⊢
  obtain ⟨hcells, herased, -, hcontent⟩ := h
  obtain ⟨hfit, hkind⟩ := (contentOk_opened hstate).1 hcontent
  exact ⟨hcells, herased, fun _ => rfl, (contentOk_valid rfl).2 ⟨hfit, hkind, hwhole⟩⟩

theorem wf_lockedNow (h : b.wf = true) (hstate : b.state = .valid) : b.lockedNow.wf = true := by
  rw [wf_iff] at h ⊢
  obtain ⟨hcells, herased, -, hcontent⟩ := h
  exact ⟨hcells, herased, fun _ => hstate, hcontent⟩

theorem wf_interrupted (h : b.wf = true) : b.interrupted.wf = true := by
  rw [wf_iff] at h ⊢
  exact ⟨h.1, h.2.1, fun hl => (by cases hl), (contentOk_incomplete rfl).2 rfl⟩

/-! ### Writes (R129) -/

theorem writeOk_iff {first : Nat} {images : List Image} : b.writeOk first images = true ↔
    b.locked = false ∧ images ≠ [] ∧ first + images.length ≤ 128 ∧
      ((b.state = .blank ∧ first = 0) ∨ (b.state = .opened ∧ first ≠ 0)) ∧
      ∃ k, b.runKind first images = some k ∧ runFits k first images = true := by
  unfold writeOk
  simp only [Bool.and_eq_true, Bool.not_eq_true', decide_eq_true_eq, List.isEmpty_eq_false_iff, and_assoc]
  refine and_congr_right fun _ => and_congr_right fun _ => and_congr_right fun _ => and_congr ?_ ?_
  · cases b.state <;> simp
  · cases b.runKind first images <;> simp

theorem kind_afterWrite_beyond {first : Nat} {images : List Image} (h : first ≠ 0) :
    (b.afterWrite first images).kind = b.kind := by
  simp only [afterWrite, if_neg h]

/-- The completion of a write leaves an OPEN block in good form. -/
theorem wf_afterWrite (h : b.wf = true) {first : Nat} {images : List Image} (hok : b.writeOk first images = true) :
    (b.afterWrite first images).wf = true := by
  obtain ⟨hlocked, hne, hlength, hstate, k, hkind, hrun⟩ := writeOk_iff.1 hok
  rw [wf_iff] at h ⊢
  obtain ⟨hcells, herased, -, hcontent⟩ := h
  refine ⟨cellsWf_putRun hcells hlength, herased, fun hl => absurd (hlocked.symm.trans hl) Bool.noConfusion,
    (contentOk_opened rfl).2 ⟨imagesFit_iff.2 ?_, kindFromHeader_iff.2 ?_⟩⟩
  all_goals obtain ⟨hblank, rfl⟩ | ⟨hopen, hfirst⟩ := hstate
  · obtain ⟨-, hnil⟩ := (contentOk_blank hblank).1 hcontent
    obtain ⟨x, xs, rfl⟩ := List.exists_cons_of_ne_nil hne
    refine ⟨k, hkind, ?_⟩
    show ∀ c ∈ putRun 0 (x :: xs) b.cells, c.2.length = k.imageLength c.1
    rw [hnil]
    exact putRun_fits hrun fun c hc => by cases hc
  · obtain ⟨hfit, -⟩ := (contentOk_opened hopen).1 hcontent
    obtain ⟨k', hk', hcells'⟩ := imagesFit_iff.1 hfit
    rw [runKind, if_neg hfirst, hk'] at hkind
    cases hkind
    exact ⟨k, by rw [kind_afterWrite_beyond hfirst, hk'], putRun_fits hrun hcells'⟩
  · obtain ⟨x, xs, rfl⟩ := List.exists_cons_of_ne_nil hne
    refine ⟨x, k, ?_, hkind, hkind⟩
    simp [afterWrite, header, image, lookup_putRun]
  · obtain ⟨-, hheader⟩ := (contentOk_opened hopen).1 hcontent
    obtain ⟨x, k', hx, hk', htable⟩ := kindFromHeader_iff.1 hheader
    refine ⟨x, k', ?_, by rw [kind_afterWrite_beyond hfirst, hk'], htable⟩
    have hlookup := lookup_putRun first 0 images b.cells
    rw [if_neg fun hin => hfirst (Nat.le_zero.1 hin.1)] at hlookup
    exact hlookup.trans hx

/-- A write that is accepted may go on to its completion. -/
theorem writeOk_of_accept (h : b.wf = true) {bound : Bool} {first : Nat} {bytes : List Byte} {images : List Image}
    (hjudge : b.judgeWrite bound first bytes = .accept images) :
    b.op = none ∧ bound = false ∧ b.writeOk first images = true := by
  obtain ⟨-, -, -, hcontent⟩ := b.wf_iff.1 h
  unfold judgeWrite at hjudge
  split at hjudge
  · cases hjudge
  next hop =>
  split at hjudge
  · cases hjudge
  next hbound =>
  split at hjudge
  · cases hjudge
  next hlocked =>
  split at hjudge
  · cases hjudge
  next hwritable =>
  refine ⟨by simpa using hop, by simpa using hbound, writeOk_iff.2 ⟨by simpa using hlocked, ?_⟩⟩
  unfold judgeRun at hjudge
  split at hjudge
  · cases hjudge
  split at hjudge
  · cases hjudge
  next hbytes =>
  split at hjudge
  · cases hjudge
  next hnoHeader =>
  split at hjudge
  · cases hjudge
  split at hjudge
  · cases hjudge
  next images' hcut =>
  split at hjudge
  · cases hjudge
  next hlength =>
  split at hjudge
  · cases hjudge
  next hunwritten =>
  cases hjudge
  obtain ⟨x, xs, rfl⟩ := List.exists_cons_of_ne_nil (fun h => hbytes (List.isEmpty_iff.2 h))
  obtain ⟨k, hkind, hcut⟩ := Option.bind_eq_some_iff.1 hcut
  obtain ⟨y, ys, rfl⟩ := cutImages_head hcut
  refine ⟨List.cons_ne_nil _ _, Nat.le_of_not_lt hlength, ?_⟩
  cases hstate : b.state with
  | valid => rw [hstate] at hwritable; exact absurd rfl hwritable
  | incomplete => rw [hstate] at hwritable; exact absurd rfl hwritable
  | blank =>
    have hfirst : first = 0 := by
      by_contra hne
      exact hnoHeader ⟨hstate, hne⟩
    rw [writeKind, hstate] at hkind
    refine ⟨.inl ⟨rfl, hfirst⟩, k, ?_, cutImages_fits hcut⟩
    rw [runKind, if_pos hfirst]
    exact hkind
  | opened =>
    obtain ⟨header, -, hheader, -⟩ := kindFromHeader_iff.1 ((contentOk_opened hstate).1 hcontent).2
    have hfirst : first ≠ 0 := by
      rintro rfl
      have := firstPosition_none hunwritten (n := 0) le_rfl (Nat.zero_le _)
      rw [written, ← Block.header, hheader] at this
      cases this
    rw [writeKind, hstate] at hkind
    refine ⟨.inr ⟨rfl, hfirst⟩, k, ?_, cutImages_fits hcut⟩
    rw [runKind, if_neg hfirst]
    exact hkind

/-! ### Commits (R130) -/

theorem wholeTable_of_parts {k : TableKind} {x : Image} (hkind : b.kind = some k) (hheader : b.header = some x)
    (hok : headerOk k x = true) (hmissing : (firstPosition 1 (entryCount x) fun p => !b.written p) = none)
    (hbeyond : firstPosition (entryCount x + 1) 127 b.written = none)
    (hbad : (firstPosition 1 (entryCount x) fun p => !b.entryOk k x p) = none) : b.wholeTable = true := by
  simp only [wholeTable, hkind, hheader, hok, hmissing, hbeyond, hbad, Option.isNone_none, Bool.and_self]

/-- A commit that finds no fault has found a whole table. -/
theorem wholeTable_of_noFault {checksum : Nat} (h : b.commitFault checksum = none) : b.wholeTable = true := by
  unfold commitFault at h
  split at h
  · next k x hkind hheader =>
    split at h
    · cases h
    next hok =>
    split at h
    · cases h
    next hmissing =>
    split at h
    · cases h
    next hbeyond =>
    split at h
    · cases h
    next hbad =>
    exact wholeTable_of_parts hkind hheader (by simpa using hok) hmissing hbeyond hbad
  · cases h

end Block

end Sys2Proof.Machine
end

section
/-! PROOFS. Table Memory over every step: blocks within their laws, bindings that name VALID blocks of their kind, and the operation
in flight that of the command in progress (R121 to R127, R136, R137, R139, R142). -/

namespace Sys2Proof.Machine

/-! ### The law -/

/-- Every block that a binding names is VALID and of the binding's kind (R142). -/
def State.Named (s : State) : Prop := ∀ i k x, (s.ctx i).bindings.namesAt k x → (s.block x).state = .valid ∧ (s.block x).kind = some k

/-- The operations in flight are those of the command in progress, which keeps what it has to until its completion (R127). -/
def State.InFlight (s : State) : Prop :=
  (∀ p, s.mgmt.inProgress = some p → s.workOk p.work = true) ∧
    ∀ b, (s.block b).op = s.mgmt.inProgress.bind fun p => p.work.opOn b

/-- The law of Table Memory in a part that runs. -/
def State.Stored (s : State) : Prop := (∀ b, (s.block b).wf = true) ∧ s.Named ∧ s.InFlight

/-- The law of Table Memory with no operation in flight. -/
def State.Still (s : State) : Prop := (∀ b, (s.block b).wf = true) ∧ s.Named ∧ ∀ b, (s.block b).op = none

theorem mem_tableKinds (k : TableKind) : k ∈ tableKinds := by cases k <;> decide

theorem State.named_iff (s : State) : (∀ i, s.bindingsOk i = true) ↔ s.Named := by
  refine forall_congr' fun i => ?_
  simp only [State.bindingsOk, List.all_eq_true, mem_tableKinds, forall_true_left, Bool.and_eq_true, Bindings.namesAt]
  refine forall_congr' fun k => ?_
  have htarget : ∀ target, s.targetOk k target = true ↔
      ∀ x, target = some x → (s.block x).state = .valid ∧ (s.block x).kind = some k := fun target => by
    cases target <;> simp [State.targetOk]
  rw [htarget]
  constructor
  · rintro ⟨hactive, hstaged⟩ x (hx | ⟨st, hst, hx⟩)
    · exact hactive x hx
    · rw [hst] at hstaged
      exact (htarget _).1 hstaged x hx
  · intro h
    refine ⟨fun x hx => h x (.inl hx), ?_⟩
    split
    · next st hst => exact (htarget _).2 fun x hx => h x (.inr ⟨st, hst, hx⟩)
    · rfl

theorem State.bound_iff (s : State) (b : BlockId) : s.bound b = true ↔ ∃ i k, (s.ctx i).bindings.namesAt k b := by
  simp only [State.bound, List.any_eq_true, slots, List.mem_finRange, true_and, Bindings.names, mem_tableKinds,
    Bool.or_eq_true, beq_iff_eq, Bindings.namesAt]
  refine exists_congr fun i => exists_congr fun k => or_congr_right ?_
  cases ((s.ctx i).bindings.get k).staged <;> simp

theorem State.unbound_iff (s : State) (b : BlockId) : s.bound b = false ↔ ∀ i k, ¬ (s.ctx i).bindings.namesAt k b := by
  rw [← Bool.not_eq_true, State.bound_iff]
  simp only [not_exists]

theorem State.lowestBound_isNone (s : State) : s.lowestBound.isNone = true ↔ ∀ b, s.bound b = false := by
  rw [State.lowestBound, Option.isNone_iff_eq_none, List.find?_eq_none]
  simp only [blockIds, List.mem_finRange, forall_true_left, Bool.not_eq_true]

theorem State.storeWf_running {s : State} (hp : s.power = .running) : s.storeWf = true ↔ s.Stored := by
  simp only [State.storeWf, Bool.and_eq_true, List.all_eq_true, blockIds, slots, List.mem_finRange, forall_true_left,
    State.named_iff, State.Stored, and_assoc]
  refine and_congr_right fun _ => and_congr_right fun _ => ?_
  unfold State.flightOk State.InFlight
  cases hprogress : s.mgmt.inProgress with
  | none => simp [hp, blockIds]
  | some p => simp [hp, blockIds]

theorem State.storeWf_stopped {s : State} (hp : s.power ≠ .running) :
    s.storeWf = true ↔ (∀ b, (s.block b).wf = true) ∧ s.mgmt.inProgress = none ∧ ∀ i, (s.ctx i).bindings = .absent := by
  have hflight : s.flightOk = true ↔ s.mgmt.inProgress = none ∧ ∀ i, (s.ctx i).bindings = .absent := by
    unfold State.flightOk
    cases hpower : s.power with
    | running => exact absurd hpower hp
    | inReset | off => simp [slots]
  simp only [State.storeWf, Bool.and_eq_true, List.all_eq_true, blockIds, List.mem_finRange, forall_true_left,
    hflight, and_assoc]
  refine and_congr_right fun _ => and_iff_right_of_imp fun h i _ => ?_
  refine (State.named_iff s).2 (fun i k x hx => ?_) i
  rw [h.2 i] at hx
  cases k <;> simp [Bindings.namesAt, Bindings.get, Bindings.absent] at hx

/-! ### Changes beside Table Memory -/

theorem State.unbound_of_within {s t : State} (h : ∀ i, (t.ctx i).bindings.within (s.ctx i).bindings) {b : BlockId}
    (hb : s.bound b = false) : t.bound b = false := by
  rw [State.unbound_iff] at hb ⊢
  exact fun i k hname => hb i k (h i k b hname)

theorem State.lowestBound_of_within {s t : State} (h : ∀ i, (t.ctx i).bindings.within (s.ctx i).bindings)
    (hs : s.lowestBound.isNone = true) : t.lowestBound.isNone = true := by
  rw [State.lowestBound_isNone] at hs ⊢
  exact fun b => State.unbound_of_within h (hs b)

/-- What a command in progress keeps, the loss of bindings keeps (R137). -/
theorem State.workOk_of_within {s t : State} (h : ∀ i, (t.ctx i).bindings.within (s.ctx i).bindings)
    (hblock : ∀ b, t.block b = s.block b) {w : Work} (hw : s.workOk w = true) : t.workOk w = true := by
  unfold State.workOk at hw ⊢
  cases w with
  | erase b | write b first images =>
    simp only [Bool.and_eq_true, Bool.not_eq_true', hblock] at hw ⊢
    exact ⟨State.unbound_of_within h hw.1, hw.2⟩
  | commit b | lock b =>
    simp only [hblock] at hw ⊢
    exact hw
  | storeClear b n x =>
    simp only [Bool.and_eq_true, hblock] at hw ⊢
    exact ⟨State.lowestBound_of_within h hw.1, hw.2⟩
  | passOver b n x =>
    simp only [Bool.and_eq_true, hblock] at hw ⊢
    exact ⟨⟨State.lowestBound_of_within h hw.1.1, hw.1.2⟩, hw.2⟩
  | reset => rfl

theorem State.block_congr {s t : State} (h : t.blocks = s.blocks) (b : BlockId) : t.block b = s.block b := by
  rw [State.block_of_blocks h]

namespace State.Stored

variable {s t : State}

/-- What leaves blocks and command in progress alone, and names no new block, keeps the law. -/
theorem of_within (h : s.Stored) (hblocks : t.blocks = s.blocks) (hp : t.mgmt.inProgress = s.mgmt.inProgress)
    (hw : ∀ i, (t.ctx i).bindings.within (s.ctx i).bindings) : t.Stored := by
  obtain ⟨hwf, hnamed, hwork, hop⟩ := h
  have hblock := State.block_congr hblocks
  refine ⟨fun b => by rw [hblock]; exact hwf b, fun i k x hx => by rw [hblock]; exact hnamed i k x (hw i k x hx),
    fun p hprogress => State.workOk_of_within hw hblock (hwork p (hp ▸ hprogress)), fun b => ?_⟩
  rw [hblock, hp]
  exact hop b

theorem of_contexts (h : s.Stored) (hblocks : t.blocks = s.blocks) (hp : t.mgmt.inProgress = s.mgmt.inProgress)
    (hc : t.contexts = s.contexts) : t.Stored :=
  h.of_within hblocks hp fun i => by rw [State.ctx_of_contexts hc i]; exact Bindings.within_refl _

theorem path {i : Slot} (h : s.Stored) (hpath : SectionPath i s t) : t.Stored := by
  have hsection := hpath.onlySection
  exact h.of_within (by rw [hsection]) (by rw [hsection]) hpath.within

/-- Between commands and during a RESET nothing is in flight. -/
theorem still (h : s.Stored) (hp : s.mgmt.inProgress = none ∨ s.mgmt.resetting = true) : s.Still := by
  obtain ⟨hwf, hnamed, -, hop⟩ := h
  refine ⟨hwf, hnamed, fun b => ?_⟩
  rw [hop]
  obtain hp | hp := hp
  · rw [hp]; rfl
  · obtain ⟨c, hc⟩ := (Management.resetting_iff _).1 hp
    rw [hc]; rfl

end State.Stored

namespace State.Still

variable {s t : State}

theorem of_within (h : s.Still) (hblocks : t.blocks = s.blocks) (hw : ∀ i, (t.ctx i).bindings.within (s.ctx i).bindings) :
    t.Still := by
  obtain ⟨hwf, hnamed, hop⟩ := h
  have hblock := State.block_congr hblocks
  refine ⟨fun b => by rw [hblock]; exact hwf b, fun i k x hx => by rw [hblock]; exact hnamed i k x (hw i k x hx), fun b => ?_⟩
  rw [hblock]
  exact hop b

theorem of_contexts (h : s.Still) (hblocks : t.blocks = s.blocks) (hc : t.contexts = s.contexts) : t.Still :=
  h.of_within hblocks fun i => by rw [State.ctx_of_contexts hc i]; exact Bindings.within_refl _

theorem stored (h : s.Still) (hp : s.mgmt.inProgress = none ∨ s.mgmt.resetting = true) : s.Stored := by
  obtain ⟨hwf, hnamed, hop⟩ := h
  obtain hp | hp := hp
  · refine ⟨hwf, hnamed, fun p hprogress => ?_, fun b => ?_⟩
    · rw [hp] at hprogress; cases hprogress
    · rw [hop, hp]; rfl
  · obtain ⟨c, hc⟩ := (Management.resetting_iff _).1 hp
    refine ⟨hwf, hnamed, fun p hprogress => ?_, fun b => ?_⟩
    · rw [hc] at hprogress; cases hprogress; rfl
    · rw [hop, hc]; rfl

theorem buildReply (h : s.Still) (cause : Option Cause) (data : List Byte) : (s.buildReply cause data).Stored :=
  stored (h.of_contexts rfl rfl) (.inl rfl)

end State.Still

/-! ### Bindings through staged applications and resets -/

theorem Bindings.appliedAll_within (b : Bindings) (timing : StagedTiming) : (b.appliedAll timing).within b := by
  intro k x hx
  rw [Bindings.namesAt, Bindings.get_appliedAll] at hx
  unfold Binding.appliedAt at hx
  split at hx
  · next st hst =>
    split at hx
    · obtain hx | ⟨st', hst', -⟩ := hx
      · exact .inr ⟨st, hst, hx⟩
      · cases hst'
    · exact hx
  · exact hx

theorem Bindings.absent_within (b : Bindings) : Bindings.absent.within b := by
  intro k x hx
  cases k <;> simp [Bindings.namesAt, Bindings.get, Bindings.absent] at hx

theorem State.resetBy_within {s t : State} {kind : ResetKind} {hushed : EngineSet} (h : s.resetBy t kind hushed) (i : Slot) :
    (t.ctx i).bindings.within (s.ctx i).bindings := by
  obtain ⟨-, h⟩ := h
  cases kind with
  | sectionOnly => rw [h.1 i]; exact Bindings.appliedAll_within _ _
  | full => rw [h.1 i]; exact Bindings.absent_within _

/-- The end of a quiesce leaves Table Memory as it is, with nothing in flight (R178). -/
theorem State.Still.quiesceEnd {s : State} (h : s.Still) (forced : Bool) (hushed : EngineSet) :
    (s.quiesceEnd forced hushed).Stored := by
  unfold State.quiesceEnd
  refine State.Still.buildReply ?_ none _
  cases hkind : s.quiesce.kind with
  | some kind =>
    have hreset := s.resetEffects_resetBy kind hushed hkind
    exact h.of_within (by rw [hreset.1]) (State.resetBy_within hreset)
  | none =>
    have heffects : (s.demand hushed .hush).resetEffects = s.demand hushed .hush := by
      have hkind' : (s.demand hushed .hush).quiesce.kind = none := hkind
      simp only [State.resetEffects, hkind']
    rw [heffects]
    exact h.of_contexts rfl rfl

/-- The test of a quiesce; while one is in progress the command in progress is its RESET. -/
theorem State.Stored.quiesceTest {s : State} (h : s.Stored) (hsound : s.quiesce.sound s.mgmt.resetting) :
    s.quiesceTest.Stored := by
  unfold State.quiesceTest
  split
  · next hcomplete =>
    refine (h.still (.inr ?_)).quiesceEnd false 0
    unfold Quiesce.complete at hcomplete
    rw [Bool.and_eq_true, beq_iff_eq] at hcomplete
    unfold Quiesce.sound at hsound
    rw [hcomplete.1] at hsound
    exact hsound.2.2.2.2
  · exact h

/-! ### Operations that begin (R127 to R130, R134, R136) -/

theorem State.block_beginStore (s : State) (b x : BlockId) (op : StoreOp) :
    (s.beginStore b op).block x = if x = b then (s.block b).begun op else s.block x := by
  have h : (s.beginStore b op).block x = (s.setBlock b ((s.block b).begun op)).block x := rfl
  rw [h, State.block_setBlock]

/-- An operation that begins on a block with nothing in flight is that of the command that then is in progress. -/
theorem State.Still.begun {s : State} (h : s.Still) {b : BlockId} {op : StoreOp} (c : Cmd) {work : Work}
    (hcount : op = .erase → (s.block b).eraseCount < 1000) (hwork : (s.beginStore b op).workOk work = true)
    (hop : ∀ x, work.opOn x = if x = b then some op else none) : ((s.beginStore b op).setInProgress c work).Stored := by
  obtain ⟨hwf, hnamed, hnone⟩ := h
  have hblock : ∀ x, ((s.beginStore b op).setInProgress c work).block x =
      if x = b then (s.block b).begun op else s.block x := fun x => s.block_beginStore b x op
  refine ⟨fun x => ?_, fun i k x hx => ?_, fun p hp => ?_, fun x => ?_⟩
  · rw [hblock]
    split
    · exact Block.wf_begun (hwf b) hcount
    · exact hwf x
  · rw [hblock]
    have hvalid := hnamed i k x hx
    split
    · next hxb => rw [Block.begun_eq]; rwa [hxb] at hvalid
    · exact hvalid
  · cases hp
    exact hwork
  · rw [hblock]
    refine Eq.trans ?_ (hop x).symm
    split
    · rw [Block.begun_eq]
    · exact hnone x

theorem Block.writeOk_begun (b : Block) (op : StoreOp) (first : Nat) (images : List Image) :
    (b.begun op).writeOk first images = b.writeOk first images := by
  rw [Block.begun_eq]
  rfl

theorem Block.wholeTable_begun (b : Block) (op : StoreOp) : (b.begun op).wholeTable = b.wholeTable := by
  rw [Block.begun_eq]
  rfl

/-- STORE CLEAR goes on to a block while no block is bound and nothing is in flight. -/
theorem State.Still.clearReach {s : State} (h : s.Still) (hbound : s.lowestBound.isNone = true) (c : Cmd) (b : BlockId)
    (erased : Nat) (worn : BlockSet) :
    ((s.clearReach b erased worn).1.setInProgress c (s.clearReach b erased worn).2).Stored := by
  have hunlocked : (s.updBlock b ({ · with locked := false })).Still := by
    obtain ⟨hwf, hnamed, hnone⟩ := h
    have hblock : ∀ x, (s.updBlock b ({ · with locked := false })).block x =
        if x = b then { s.block b with locked := false } else s.block x := fun x => by
      rw [State.updBlock_eq, State.block_setBlock]
    refine ⟨fun x => ?_, fun i k x hx => ?_, fun x => ?_⟩ <;> rw [hblock]
    · split
      · exact Block.wf_unlocked (hwf b)
      · exact hwf x
    · exact absurd hx ((State.unbound_iff s x).1 ((State.lowestBound_isNone s).1 hbound x) i k)
    · split
      · exact hnone b
      · exact hnone x
  have hlocked : ((s.updBlock b ({ · with locked := false })).block b).locked = false := by
    rw [State.updBlock_eq, State.block_setBlock_same]
  unfold State.clearReach
  dsimp only
  split
  · next hcount =>
    refine hunlocked.begun c (fun _ => hcount) ?_ fun x => ?_
    · simp only [State.workOk, Bool.and_eq_true, Bool.not_eq_true', State.block_beginStore, if_true, Block.begun_eq]
      exact ⟨hbound, hlocked⟩
    · simp only [Work.opOn, eq_comm]
  · next hworn =>
    obtain ⟨hwf, hnamed, hnone⟩ := hunlocked
    refine ⟨hwf, hnamed, fun p hp => ?_, hnone⟩
    cases hp
    simp only [State.workOk, Bool.and_eq_true, Bool.not_eq_true', decide_eq_true_eq]
    exact ⟨⟨hbound, hlocked⟩, Nat.le_of_not_lt hworn⟩

/-- A command that begins to work on Table Memory is in progress with its operation (R127). -/
theorem State.Still.begins {s t : State} {work : Work} (h : s.Still) (hbegins : s.Begins t work) (hne : work ≠ .reset)
    (c : Cmd) : (t.setInProgress c work).Stored := by
  cases hbegins with
  | erase b _ hbound hlocked hcount =>
    refine h.begun c (fun _ => hcount) ?_ fun x => by simp only [Work.opOn, eq_comm]
    simp only [State.workOk, Bool.and_eq_true, Bool.not_eq_true', State.block_beginStore, if_true, Block.begun_eq]
    exact ⟨hbound, hlocked⟩
  | write b first bytes images hjudge =>
    obtain ⟨-, hbound, hok⟩ := Block.writeOk_of_accept (h.1 b) hjudge
    refine h.begun c (fun hop => by cases hop) ?_ fun x => by simp only [Work.opOn, eq_comm]
    simp only [State.workOk, Bool.and_eq_true, Bool.not_eq_true', State.block_beginStore, if_true, Block.writeOk_begun]
    exact ⟨hbound, hok⟩
  | commit b checksum _ hstate hfault =>
    refine h.begun c (fun hop => by cases hop) ?_ fun x => by simp only [Work.opOn, eq_comm]
    simp only [State.workOk, Bool.and_eq_true, beq_iff_eq, State.block_beginStore, if_true, Block.wholeTable_begun]
    refine ⟨?_, Block.wholeTable_of_noFault hfault⟩
    rw [Block.begun_eq]
    exact hstate
  | lock b _ hlocked hstate =>
    refine h.begun c (fun hop => by cases hop) ?_ fun x => by simp only [Work.opOn, eq_comm]
    simp only [State.workOk, Bool.and_eq_true, Bool.not_eq_true', beq_iff_eq, State.block_beginStore, if_true,
      Block.begun_eq]
    exact ⟨hstate, hlocked⟩
  | clear hbound => exact h.clearReach (by rw [hbound]; rfl) c 0 0 0
  | reset => exact absurd rfl hne

/-! ### Commands that start -/

/-- A BIND names a block that is VALID and of the kind (R142, R143). -/
theorem State.Still.bind {s t : State} {i : Slot} {k : TableKind} {target : Option BlockId} (h : s.Still)
    (ht : ∀ b, target = some b → (s.block b).state = .valid ∧ (s.block b).kind = some k) (hbind : s.BindsTo i k target t) :
    t.Still := by
  have hset : ∀ (c : Context) (b : Binding), c.bindings = (s.ctx i).bindings.set k b →
      (∀ x, b.active = some x ∨ (∃ st, b.staged = some st ∧ st.target = some x) →
        (s.block x).state = .valid ∧ (s.block x).kind = some k) → (s.setCtx i c).Still := fun c b hc hb => by
    obtain ⟨hwf, hnamed, hop⟩ := h
    refine ⟨hwf, fun j k' x hx => ?_, hop⟩
    rw [State.ctx_setCtx] at hx
    split at hx
    · rw [hc] at hx
      by_cases hk : k' = k
      · subst hk
        rw [Bindings.namesAt, Bindings.get_set_same] at hx
        exact hb x hx
      · rw [Bindings.namesAt, Bindings.get_set_ne _ _ _ _ hk] at hx
        exact hnamed i k' x hx
    · exact hnamed j k' x hx
  have hstaged : ∀ (timing : StagedTiming) (x : BlockId), ((s.ctx i).bindings.get k).active = some x ∨
      (∃ st, some (Staged.mk target timing) = some st ∧ st.target = some x) →
        (s.block x).state = .valid ∧ (s.block x).kind = some k := fun timing x hx => by
    obtain hx | ⟨st, hst, hx⟩ := hx
    · exact h.2.1 i k x (.inl hx)
    · cases hst
      exact ht x hx
  cases hbind with
  | active _ =>
    refine hset _ ⟨target, none⟩ rfl fun x hx => ?_
    obtain hx | ⟨st, hst, -⟩ := hx
    · exact ht x hx
    · cases hst
  | atRest _ => exact hset _ _ rfl (hstaged .atRest)
  | atPhrase => exact hset _ _ rfl (hstaged .atPhrase)
  | atNextPhrase _ => exact hset _ _ rfl (hstaged .atPhrase)
  | abandoned _ =>
    have hnone : (s.setCtx i ((s.ctx i).setBinding k ⟨none, none⟩)).Still := by
      refine hset _ ⟨none, none⟩ rfl fun x hx => ?_
      obtain hx | ⟨st, hst, -⟩ := hx
      · cases hx
      · cases hst
    have hpath := (State.path_abandon (s.setCtx i ((s.ctx i).setBinding k ⟨none, none⟩)) i).trans
      (State.path_enterReady _ i)
    exact hnone.of_within (by rw [hpath.onlySection]) hpath.within

theorem State.Still.prompt {s t : State} (h : s.Still) (hprompt : s.Prompt t) : t.Still := by
  cases hprompt with
  | unchanged => exact h
  | tailLimit | arbiter | mask => exact h.of_contexts rfl rfl
  | settings | enable =>
    refine h.of_within rfl fun j => ?_
    rw [State.ctx_setCtx]
    split
    · next hj => rw [hj]; exact Bindings.within_refl _
    · exact Bindings.within_refl _
  | disable i => exact h.of_within (by rw [(s.path_disable i).onlySection]) (s.path_disable i).within
  | bind i k target timing ht => exact h.bind ht (s.bindAt_bindsTo i k target timing)

theorem State.quiesceBegin_within (s : State) (kind : ResetKind) (limit : Nat) (i : Slot) :
    ((s.quiesceBegin kind limit).ctx i).bindings.within (s.ctx i).bindings := by
  have hcontexts := forEach_keeps (P := fun t => (t.ctx i).bindings.within (s.ctx i).bindings) slots
    (fun i s => s.quiesceContext i)
    (fun j t ht k x hx => ht k x ((t.path_quiesceContext j).within i k x hx))
    (s := s.setQuiesce { s.quiesce with phase := .quiescing, kind := some kind }) (Bindings.within_refl _)
  unfold State.quiesceBegin
  dsimp only
  generalize forEach slots _ _ = u at hcontexts ⊢
  exact hcontexts

/-- A RESET in progress has nothing in flight. -/
theorem State.Still.resetBegun {s : State} (h : s.Still) (c : Cmd) : (s.setInProgress c .reset).Stored :=
  State.Still.stored (h.of_contexts rfl rfl) (.inr rfl)

theorem State.Still.storeDone {s : State} (h : s.Still) : s.storeDone.Still := h.of_contexts rfl rfl

theorem State.Still.startHeld {s : State} (h : s.Still) (c : Cmd) : (s.startHeld c).Stored := by
  have hstarts := s.startHeld_starts c
  generalize s.startHeld c = u at hstarts ⊢
  cases hstarts with
  | refused cause data => exact h.buildReply _ _
  | done hprompt data => exact (h.prompt hprompt).buildReply _ _
  | going hbegins hw => exact h.begins hbegins hw c
  | reset kind limit _ =>
    have hstill : (s.quiesceBegin kind limit).Still :=
      h.of_within (by rw [State.quiesceBegin_frame]) (s.quiesceBegin_within kind limit)
    refine (hstill.resetBegun c).quiesceTest ?_
    rw [State.quiesceBegin_frame]
    exact Quiesce.sound_begun kind _ _

/-- The laws of Table Memory and of the quiesce record in a part that runs. -/
def State.StoredLawful (s : State) : Prop := s.Stored ∧ s.restartWf = true

namespace State.StoredLawful

variable {s t : State}

theorem startWaiting (h : s.StoredLawful) : s.startWaiting.StoredLawful := by
  refine State.startWaiting_keeps (P := State.StoredLawful) (fun s c rest h hp _ _ => ?_) h
  obtain ⟨hstored, hrestart⟩ := h
  refine ⟨((hstored.still (.inl hp)).of_contexts (t := s.hold c rest) rfl rfl).startHeld c,
    State.restartWf_startHeld (State.restartWf_congr hrestart rfl rfl) hp⟩

theorem arrive (h : s.StoredLawful) (c : Cmd) : (s.arrive c).StoredLawful := by
  have hqueue : ∀ w overrun, (s.setMgmt { s.mgmt with waiting := w, overrun := overrun }).StoredLawful := fun _ _ =>
    ⟨h.1.of_contexts rfl rfl rfl, State.restartWf_congr h.2 rfl rfl⟩
  unfold State.arrive
  split
  · exact startWaiting (hqueue _ s.mgmt.overrun)
  · exact hqueue s.mgmt.waiting true

theorem afterQuiesceEvent (h : s.Stored) (hsound : s.quiesce.sound s.mgmt.resetting) : s.afterQuiesceEvent.Stored := by
  unfold State.afterQuiesceEvent
  split
  · exact (startWaiting ⟨h.quiesceTest hsound, State.restartWf_quiesceTest hsound⟩).1
  · exact h

/-- An answer to the command in progress when nothing is in flight any more. -/
theorem finish (h : s.Still) (hq : s.quiesce = .idle) (data : List Byte) :
    (s.buildReply none data).startWaiting.StoredLawful :=
  startWaiting ⟨h.buildReply none data, State.restartWf_of_idle hq rfl⟩

/-- With a command of Table Memory in progress no quiesce is (R174). -/
theorem idle (h : s.StoredLawful) {c : Cmd} {work : Work} (hp : s.mgmt.inProgress = some ⟨c, work⟩) (hne : work ≠ .reset) :
    s.quiesce = .idle := State.restartWf.idle h.2 (Management.resetting_of_work hp hne)

end State.StoredLawful

/-- The completion of the operation in flight on a block leaves nothing in flight. -/
theorem State.Stored.completed {s : State} (h : s.Stored) {c : Cmd} {work : Work} {b : BlockId} {f : Block → Block}
    (hp : s.mgmt.inProgress = some ⟨c, work⟩) (hother : ∀ x, x ≠ b → work.opOn x = none)
    (hwf : (f (s.block b)).wf = true) (hop : (f (s.block b)).op = none)
    (hnamed : ∀ i k, (s.ctx i).bindings.namesAt k b → (f (s.block b)).state = .valid ∧ (f (s.block b)).kind = some k) :
    (s.updBlock b f).Still := by
  obtain ⟨hblocks, hnames, -, hops⟩ := h
  have hblock : ∀ x, (s.updBlock b f).block x = if x = b then f (s.block b) else s.block x := fun x => by
    rw [State.updBlock_eq, State.block_setBlock]
  refine ⟨fun x => ?_, fun i k x hx => ?_, fun x => ?_⟩ <;> rw [hblock]
  · split
    · exact hwf
    · exact hblocks x
  · split
    · next hxb => exact hnamed i k (hxb ▸ hx)
    · exact hnames i k x hx
  · split
    · exact hop
    · next hxb =>
      rw [hops, hp]
      exact hother x hxb

namespace State.StoredLawful

variable {s t : State}

theorem complete (h : s.StoredLawful) {c : Cmd} {work : Work} {b : BlockId} {f : Block → Block}
    (hp : s.mgmt.inProgress = some ⟨c, work⟩) (hne : work ≠ .reset) (hother : ∀ x, x ≠ b → work.opOn x = none)
    (hwf : (f (s.block b)).wf = true) (hop : (f (s.block b)).op = none)
    (hnamed : ∀ i k, (s.ctx i).bindings.namesAt k b → (f (s.block b)).state = .valid ∧ (f (s.block b)).kind = some k)
    (data : Block → List Byte) : (s.complete b f data).StoredLawful := by
  unfold State.complete
  refine finish (h.1.completed hp hother hwf hop hnamed).storeDone ?_ _
  rw [State.storeDone_quiesce, State.updBlock_eq, State.setBlock_quiesce]
  exact h.idle hp hne

theorem erasureDone (h : s.StoredLawful) : s.erasureDone.StoredLawful := by
  unfold State.erasureDone
  split
  · next c b hp =>
    have hok := h.1.2.2.1 _ hp
    simp only [State.workOk, Bool.and_eq_true, Bool.not_eq_true'] at hok
    exact h.complete hp Work.noConfusion (fun x hx => if_neg (Ne.symm hx)) (Block.wf_erased (h.1.1 b) hok.2) rfl
      (fun i k hx => absurd hx ((State.unbound_iff s b).1 hok.1 i k)) _
  · exact h

theorem writeDone (h : s.StoredLawful) : s.writeDone.StoredLawful := by
  unfold State.writeDone
  split
  · next c b first images hp =>
    have hok := h.1.2.2.1 _ hp
    simp only [State.workOk, Bool.and_eq_true, Bool.not_eq_true'] at hok
    exact h.complete hp Work.noConfusion (fun x hx => if_neg (Ne.symm hx)) (Block.wf_afterWrite (h.1.1 b) hok.2) rfl
      (fun i k hx => absurd hx ((State.unbound_iff s b).1 hok.1 i k)) _
  · exact h

theorem commitDone (h : s.StoredLawful) : s.commitDone.StoredLawful := by
  unfold State.commitDone
  split
  · next c b hp =>
    have hok := h.1.2.2.1 _ hp
    simp only [State.workOk, Bool.and_eq_true, beq_iff_eq] at hok
    exact h.complete hp Work.noConfusion (fun x hx => if_neg (Ne.symm hx)) (Block.wf_committed (h.1.1 b) hok.1 hok.2) rfl
      (fun i k hx => ⟨rfl, (h.1.2.1 i k b hx).2⟩) _
  · exact h

theorem lockDone (h : s.StoredLawful) : s.lockDone.StoredLawful := by
  unfold State.lockDone
  split
  · next c b hp =>
    have hok := h.1.2.2.1 _ hp
    simp only [State.workOk, Bool.and_eq_true, beq_iff_eq] at hok
    exact h.complete hp Work.noConfusion (fun x hx => if_neg (Ne.symm hx)) (Block.wf_lockedNow (h.1.1 b) hok.1) rfl
      (fun i k hx => h.1.2.1 i k b hx) _
  · exact h

/-- STORE CLEAR goes on, or answers. -/
theorem clearNext (h : s.Still) (hq : s.quiesce = .idle) (hbound : s.lowestBound.isNone = true) (c : Cmd) (b : BlockId)
    (erased : Nat) (worn : BlockSet) : (s.clearNext c b erased worn).StoredLawful := by
  refine ⟨?_, State.restartWf_clearNext hq b erased worn⟩
  by_cases hb : b.val + 1 < 24
  · rw [s.clearNext_reach c erased worn hb]
    exact h.clearReach hbound c _ erased worn
  · rw [s.clearNext_last c erased worn hb]
    exact (finish h hq _).1

theorem clearBlockDone (h : s.StoredLawful) : s.clearBlockDone.StoredLawful := by
  unfold State.clearBlockDone
  split
  · next c b n worn hp =>
    have hok := h.1.2.2.1 _ hp
    simp only [State.workOk, Bool.and_eq_true, Bool.not_eq_true'] at hok
    have hunbound := (State.unbound_iff s b).1 ((State.lowestBound_isNone s).1 hok.1 b)
    have hstill := h.1.completed (f := Block.erased) hp (fun x hx => if_neg (Ne.symm hx))
      (Block.wf_erased (h.1.1 b) hok.2) rfl fun i k hx => absurd hx (hunbound i k)
    have hidle := h.idle hp Work.noConfusion
    refine clearNext hstill.storeDone ?_ hok.1 c b _ _
    rw [State.storeDone_quiesce, State.updBlock_eq, State.setBlock_quiesce]
    exact hidle
  · next c b n worn hp =>
    have hok := h.1.2.2.1 _ hp
    simp only [State.workOk, Bool.and_eq_true, Bool.not_eq_true'] at hok
    obtain ⟨hwf, hnamed, -, hop⟩ := h.1
    have hstill : s.Still := ⟨hwf, hnamed, fun x => by rw [hop, hp]; rfl⟩
    have hidle := h.idle hp Work.noConfusion
    refine clearNext hstill.storeDone ?_ hok.1.1 c b _ _
    rw [State.storeDone_quiesce]
    exact hidle
  · exact h

/-! ### Events -/

theorem hears (h : s.StoredLawful) (hhears : s.Hears t) : t.StoredLawful := by
  refine ⟨?_, State.restartWf_hears h.2 hhears⟩
  have hsound := ((State.restartWf_iff s).1 h.2).1
  cases hhears with
  | nothing => exact h.1
  | gesture i g _ => exact h.1.path (s.path_gestureAt i g)
  | command c => exact (h.arrive c).1
  | hello e count _ =>
    have hctx : ∀ i, ((s.hello e count).ctx i).bindings = (s.ctx i).bindings := fun i => by simp [State.hello, Context.lose]
    have hmgmt : (s.hello e count).mgmt.inProgress = s.mgmt.inProgress := by
      simp only [State.hello]
      rw [State.onlySection_offer]
      rfl
    refine afterQuiesceEvent (s := (s.hello e count).setQuiesce _) ?_ ?_
    · refine h.1.of_within rfl hmgmt fun i => ?_
      rw [State.ctx_setQuiesce, hctx]
      exact Bindings.within_refl _
    · rw [State.setQuiesce_quiesce, State.setQuiesce_mgmt, Management.resetting, hmgmt]
      exact Quiesce.sound_rejoined hsound e
  | tailDone v tag =>
    unfold State.tailDone
    split
    · exact h.1.of_contexts rfl rfl rfl
    · exact h.1
  | held e held =>
    unfold State.setHeld
    split
    · exact h.1.of_contexts rfl rfl rfl
    · exact h.1
  | quiesceAck e =>
    exact afterQuiesceEvent (h.1.of_contexts rfl rfl rfl) (Quiesce.sound_answered hsound e)

theorem selects (h : s.StoredLawful) (hselects : s.Selects t) : t.StoredLawful := by
  refine ⟨?_, State.restartWf_selects h.2 hselects⟩
  cases hselects with
  | nothing => exact h.1
  | struck | endSent | updateSent | broadcast | hush | notice => exact h.1.of_contexts rfl rfl rfl
  | quiesce e a =>
    exact afterQuiesceEvent (h.1.of_contexts rfl rfl rfl)
      (Quiesce.sound_quiesceSent ((State.restartWf_iff s).1 h.2).1 e)
  | reply e rest a _ _ =>
    refine (startWaiting (s := { s with mgmt := { s.mgmt with replies := rest }, arbiter := a }) ⟨?_, ?_⟩).1
    · exact h.1.of_contexts rfl rfl rfl
    · exact State.restartWf_congr h.2 rfl rfl

theorem tailExpiry (h : s.StoredLawful) (v : VoiceId) : (s.tailExpiry v).Stored := by
  unfold State.tailExpiry
  split
  · split
    · exact Stored.path (i := 0) (h.1.of_contexts (t := s.updVoice v Voice.tailOver) rfl rfl rfl) (SectionPath.refl.offer _)
    all_goals exact h.1.of_contexts rfl rfl rfl
  · exact h.1

theorem limitExpiry (h : s.StoredLawful) : s.limitExpiry.Stored := by
  unfold State.limitExpiry
  split
  · next hrun =>
    have hsound := ((State.restartWf_iff s).1 h.2).1
    unfold Quiesce.sound at hsound
    unfold State.limitExpired
    split
    · next hq =>
      rw [hq] at hsound
      exact (startWaiting ⟨(h.1.still (.inr hsound.2.2.2.2)).quiesceEnd true _, State.restartWf_of_idle rfl rfl⟩).1
    · next hq =>
      rw [hq] at hsound
      rw [hsound.1] at hrun
      exact absurd hrun (by decide)
  · exact h.1

/-- Every event of a part that runs keeps the laws. -/
theorem event (h : s.StoredLawful) (hevent : s.Event t) : t.StoredLawful := by
  have hrestart := State.restartWf_event h.2 hevent
  cases hevent with
  | context i hsection => exact ⟨h.1.path hsection.path, hrestart⟩
  | tailExpiry v => exact ⟨h.tailExpiry v, hrestart⟩
  | frame l bytes =>
    refine State.receive_keeps (P := State.StoredLawful) (fun s l r h => ⟨?_, ?_⟩) (fun _ _ h hh => h.hears hh) h l bytes
    · exact h.1.of_contexts (State.setReceiver_blocks s l r) (by rw [State.setReceiver_mgmt])
        (State.setReceiver_contexts s l r)
    · exact State.restartWf_congr h.2 (State.setReceiver_quiesce s l r) (by rw [State.setReceiver_mgmt])
  | bytes l bytes =>
    exact ⟨h.1.of_contexts (State.setReceiver_blocks s l _) (by rw [State.bytesOn, State.setReceiver_mgmt])
      (State.setReceiver_contexts s l _), hrestart⟩
  | arrival c => exact h.arrive c
  | commandStart => exact h.startWaiting
  | selection => exact h.selects s.selection_selects
  | transmitDone => exact ⟨h.1.of_contexts rfl rfl rfl, hrestart⟩
  | erasureDone => exact h.erasureDone
  | writeDone => exact h.writeDone
  | commitDone => exact h.commitDone
  | lockDone => exact h.lockDone
  | clearBlockDone => exact h.clearBlockDone
  | limitExpiry => exact ⟨h.limitExpiry, hrestart⟩

end State.StoredLawful

/-! ### Reset, power and start-up (R139, R140, R179) -/

theorem State.block_startedUp (s : State) (b : BlockId) :
    s.startedUp.block b = if (s.block b).op.isSome = true then (s.block b).interrupted else s.block b := by
  unfold State.startedUp
  dsimp only
  split <;> exact State.block_mapBlocks _ _ b

/-- A start-up leaves nothing in flight (R139, R140). -/
theorem State.stored_startedUp {s : State} (hwf : ∀ b, (s.block b).wf = true) (hp : s.mgmt.inProgress = none)
    (hbindings : ∀ i, (s.ctx i).bindings = .absent) : s.startedUp.Stored := by
  have hctx : ∀ i, (s.startedUp.ctx i).bindings = .absent := fun i => by
    rw [State.startedUp_frame]
    exact hbindings i
  refine State.Still.stored ⟨fun b => ?_, fun i k x hx => ?_, fun b => ?_⟩ (.inl ?_)
  · rw [State.block_startedUp]
    split
    · exact Block.wf_interrupted (hwf b)
    · exact hwf b
  · rw [hctx i] at hx
    cases k <;> simp [Bindings.namesAt, Bindings.get, Bindings.absent] at hx
  · rw [State.block_startedUp]
    split
    · rfl
    · next hop => simpa using hop
  · rw [State.startedUp_frame]
    exact hp

theorem State.ctx_cleared (s : State) (p : Power) (i : Slot) : (s.cleared p).ctx i = Context.initial :=
  Vector.getElem_replicate i.isLt

/-- A law of Table Memory holds in whatever power state the part is. -/
theorem State.blocksWf_of_storeWf {s : State} (h : s.storeWf = true) (b : BlockId) : (s.block b).wf = true := by
  by_cases hp : s.power = .running
  · exact ((State.storeWf_running hp).1 h).1 b
  · exact ((State.storeWf_stopped hp).1 h).1 b

theorem State.power_startedUp (s : State) : s.startedUp.power = .running := by rw [State.startedUp_frame]

theorem State.storeWf_of_frame {s t : State} (h : s.storeWf = true) (hb : t.blocks = s.blocks) (hc : t.contexts = s.contexts)
    (hm : t.mgmt = s.mgmt) (hpower : t.power = s.power) : t.storeWf = true := by
  by_cases hp : s.power = .running
  · exact (State.storeWf_running (hpower.trans hp)).2 (((State.storeWf_running hp).1 h).of_contexts hb (by rw [hm]) hc)
  · obtain ⟨hwf, hprogress, hbindings⟩ := (State.storeWf_stopped hp).1 h
    refine (State.storeWf_stopped (by rwa [hpower])).2 ⟨fun b => ?_, by rw [hm]; exact hprogress, fun i => ?_⟩
    · rw [State.block_congr hb]; exact hwf b
    · rw [State.ctx_of_contexts hc]; exact hbindings i

end Sys2Proof.Machine
end

section
/-! PROOFS. What events of a running part leave alone: the power, the queue of the commands, and but for the completions the tables
in Table Memory. With it the laws that need to know whether the part runs, or which block changes (R142, R165, R179; log entries
1, 6, 14 and 21). -/

namespace Sys2Proof.Machine

/-- The table in each block: its positions, its kind and its state. -/
def State.tables (s : State) (b : BlockId) : List Cell × Option TableKind × BlockState :=
  ((s.block b).cells, (s.block b).kind, (s.block b).state)

theorem State.tables_setBlock {s : State} {b : BlockId} {r : Block} (hcells : r.cells = (s.block b).cells)
    (hkind : r.kind = (s.block b).kind) (hstate : r.state = (s.block b).state) : (s.setBlock b r).tables = s.tables := by
  funext x
  rw [State.tables, State.block_setBlock]
  split
  · next hx => rw [hcells, hkind, hstate, hx]; rfl
  · rfl

theorem State.tables_congr {s t : State} (h : t.blocks = s.blocks) : t.tables = s.tables := by
  funext b
  rw [State.tables, State.tables, State.block_congr h]

theorem State.tables_beginStore (s : State) (b : BlockId) (op : StoreOp) : (s.beginStore b op).tables = s.tables := by
  have h : (s.beginStore b op).tables = (s.setBlock b ((s.block b).begun op)).tables := rfl
  rw [h]
  refine State.tables_setBlock ?_ ?_ ?_ <;> rw [Block.begun_eq]

/-- A STORE CLEAR that reaches a block changes no table yet (R136). -/
theorem State.tables_clearReach (s : State) (b : BlockId) (erased : Nat) (worn : BlockSet) :
    (s.clearReach b erased worn).1.tables = s.tables := by
  have hunlocked : (s.setBlock b { s.block b with locked := false }).tables = s.tables := State.tables_setBlock rfl rfl rfl
  unfold State.clearReach
  dsimp only
  split
  · exact (State.tables_beginStore _ b .erase).trans hunlocked
  · exact hunlocked

/-- A command that begins changes no table (R127). -/
theorem State.Begins.tables {s t : State} {work : Work} (h : s.Begins t work) : t.tables = s.tables := by
  cases h with
  | erase b | write b | commit b | lock b => exact s.tables_beginStore b _
  | clear => exact s.tables_clearReach 0 0 0
  | reset kind limit _ => exact State.tables_congr (by rw [State.quiesceBegin_frame])

/-- Power, queue and tables of another state. -/
def State.SameOutside (s t : State) : Prop := t.power = s.power ∧ t.pending = s.pending ∧ t.tables = s.tables

namespace State.SameOutside

variable {r s t : State}

theorem refl (s : State) : s.SameOutside s := ⟨rfl, rfl, rfl⟩

theorem trans (h : r.SameOutside s) (h' : s.SameOutside t) : r.SameOutside t :=
  ⟨h'.1.trans h.1, h'.2.1.trans h.2.1, h'.2.2.trans h.2.2⟩

theorem ofSection (h : s.onlySection t) : s.SameOutside t := by
  rw [h]
  exact ⟨rfl, rfl, rfl⟩

theorem quiesceEnd (s : State) (forced : Bool) (hushed : EngineSet) : s.SameOutside (s.quiesceEnd forced hushed) := by
  have heffects : s.SameOutside ((s.demand hushed .hush).resetEffects.setQuiesce .idle) := by
    cases hkind : s.quiesce.kind with
    | some kind =>
      rw [(s.resetEffects_resetBy kind hushed hkind).1]
      exact ⟨rfl, rfl, rfl⟩
    | none =>
      have hkind' : (s.demand hushed .hush).quiesce.kind = none := hkind
      simp only [State.resetEffects, hkind']
      exact ⟨rfl, rfl, rfl⟩
  exact heffects

theorem quiesceTest (s : State) : s.SameOutside s.quiesceTest := by
  unfold State.quiesceTest
  split
  · exact quiesceEnd s _ _
  · exact refl s

theorem setInProgress (s : State) (c : Cmd) (work : Work) : s.SameOutside (s.setInProgress c work) := ⟨rfl, rfl, rfl⟩

theorem quiesceBegin (s : State) (kind : ResetKind) (limit : Nat) : s.SameOutside (s.quiesceBegin kind limit) :=
  ⟨by rw [State.quiesceBegin_frame], by rw [State.quiesceBegin_frame],
    State.tables_congr (by rw [State.quiesceBegin_frame])⟩

theorem startHeld (s : State) (c : Cmd) : s.SameOutside (s.startHeld c) := by
  have h := s.startHeld_starts c
  generalize s.startHeld c = u at h ⊢
  cases h with
  | refused cause data => exact ⟨rfl, rfl, rfl⟩
  | @done t h data =>
    have : s.SameOutside t := by rw [h.frame]; exact ⟨rfl, rfl, rfl⟩
    exact this
  | @going t work h hw =>
    have hpower : t.power = s.power ∧ t.pending = s.pending := by
      rw [h.frame hw]
      exact ⟨rfl, rfl⟩
    exact ⟨hpower.1, hpower.2, h.tables⟩
  | reset kind limit _ =>
    exact trans (trans (quiesceBegin s kind limit) (setInProgress _ c .reset)) (quiesceTest _)

theorem startWaiting (s : State) : s.SameOutside s.startWaiting :=
  State.startWaiting_keeps (P := s.SameOutside) (fun _ c _ h _ _ _ => h.trans (startHeld _ c)) (refl s)

theorem arrive (s : State) (c : Cmd) : s.SameOutside (s.arrive c) :=
  State.arrive_keeps (P := s.SameOutside) (fun _ _ _ h => h) (fun _ c _ h _ _ _ => h.trans (startHeld _ c)) (refl s) c

theorem afterQuiesceEvent (s : State) : s.SameOutside s.afterQuiesceEvent := by
  unfold State.afterQuiesceEvent
  split
  · exact (quiesceTest s).trans (startWaiting _)
  · exact refl s

theorem complete (s : State) (b : BlockId) (f : Block → Block) (data : Block → List Byte) :
    (s.updBlock b f).SameOutside (s.complete b f data) := by
  unfold State.complete
  exact trans ⟨rfl, rfl, rfl⟩ (startWaiting _)

theorem clearNext (s : State) (c : Cmd) (b : BlockId) (erased : Nat) (worn : BlockSet) :
    s.SameOutside (s.clearNext c b erased worn) := by
  by_cases h : b.val + 1 < 24
  · rw [s.clearNext_reach c erased worn h]
    refine trans ⟨?_, ?_, s.tables_clearReach _ erased worn⟩ (setInProgress _ c _) <;> rw [State.clearReach_frame]
  · rw [s.clearNext_last c erased worn h]
    exact trans ⟨rfl, rfl, rfl⟩ (startWaiting _)

theorem hears (h : s.Hears t) : s.SameOutside t := by
  cases h with
  | nothing => exact refl s
  | gesture i g _ => exact ofSection (s.path_gestureAt i g).onlySection
  | command c => exact arrive s c
  | hello e count _ =>
    refine trans ?_ (afterQuiesceEvent _)
    have hhello : s.SameOutside (s.hello e count) := by
      simp only [State.hello]
      rw [State.onlySection_offer]
      exact ⟨rfl, rfl, rfl⟩
    exact hhello
  | tailDone v tag =>
    unfold State.tailDone
    split <;> exact ⟨rfl, rfl, rfl⟩
  | held e held =>
    unfold State.setHeld
    split <;> exact ⟨rfl, rfl, rfl⟩
  | quiesceAck e => exact trans ⟨rfl, rfl, rfl⟩ (afterQuiesceEvent _)

theorem selects (h : s.Selects t) : s.SameOutside t := by
  cases h with
  | nothing | struck | endSent | updateSent | broadcast | hush | notice => exact ⟨rfl, rfl, rfl⟩
  | quiesce e a => exact trans ⟨rfl, rfl, rfl⟩ (afterQuiesceEvent _)
  | reply e rest a _ _ => exact trans ⟨rfl, rfl, rfl⟩ (startWaiting _)

theorem setReceiver (s : State) (l : Link) (r : Receiver) : s.SameOutside (s.setReceiver l r) :=
  ⟨State.setReceiver_power s l r, State.setReceiver_pending s l r, State.tables_congr (State.setReceiver_blocks s l r)⟩

theorem tailExpiry (s : State) (v : VoiceId) : s.SameOutside (s.tailExpiry v) := by
  unfold State.tailExpiry
  split
  · split
    · exact trans ⟨rfl, rfl, rfl⟩ (ofSection (State.onlySection_offer _ _))
    all_goals exact ⟨rfl, rfl, rfl⟩
  · exact refl s

theorem limitExpiry (s : State) : s.SameOutside s.limitExpiry := by
  unfold State.limitExpiry
  split
  · refine trans ?_ (startWaiting _)
    unfold State.limitExpired
    split
    · exact quiesceEnd s _ _
    · exact ⟨rfl, rfl, rfl⟩
  · exact refl s

end State.SameOutside

/-- An operation that completes on a block, and what its completion makes of the block (R128 to R130, R134, R136). -/
inductive State.Completes (s : State) : BlockId → (Block → Block) → Prop where
  | erasure {c : Cmd} {b : BlockId} (h : s.mgmt.inProgress = some ⟨c, .erase b⟩) : State.Completes s b Block.erased
  | write {c : Cmd} {b : BlockId} {first : Nat} {images : List Image} (h : s.mgmt.inProgress = some ⟨c, .write b first images⟩) :
      State.Completes s b (·.afterWrite first images)
  | commit {c : Cmd} {b : BlockId} (h : s.mgmt.inProgress = some ⟨c, .commit b⟩) : State.Completes s b Block.committed
  | lock {c : Cmd} {b : BlockId} (h : s.mgmt.inProgress = some ⟨c, .lock b⟩) : State.Completes s b Block.lockedNow
  | clear {c : Cmd} {b : BlockId} {n : Nat} {worn : BlockSet} (h : s.mgmt.inProgress = some ⟨c, .storeClear b n worn⟩) :
      State.Completes s b Block.erased

/-- No event of a running part touches power and queue, and only a completion touches a table. -/
theorem State.Event.sameOutside {s t : State} (h : s.Event t) :
    s.SameOutside t ∨ ∃ b f, s.Completes b f ∧ (s.updBlock b f).SameOutside t := by
  cases h with
  | context i h => exact .inl (.ofSection h.path.onlySection)
  | tailExpiry v => exact .inl (.tailExpiry s v)
  | frame l bytes =>
    exact .inl (State.receive_keeps (P := s.SameOutside) (fun t l r h => h.trans (.setReceiver t l r))
      (fun _ _ h hh => h.trans (.hears hh)) (.refl s) l bytes)
  | bytes l bytes => exact .inl (.setReceiver s l _)
  | arrival c => exact .inl (.arrive s c)
  | commandStart => exact .inl (.startWaiting s)
  | selection => exact .inl (.selects s.selection_selects)
  | transmitDone => exact .inl ⟨rfl, rfl, rfl⟩
  | erasureDone =>
    unfold State.erasureDone
    split
    · next hp => exact .inr ⟨_, _, .erasure hp, .complete s _ _ _⟩
    · exact .inl (.refl s)
  | writeDone =>
    unfold State.writeDone
    split
    · next hp => exact .inr ⟨_, _, .write hp, .complete s _ _ _⟩
    · exact .inl (.refl s)
  | commitDone =>
    unfold State.commitDone
    split
    · next hp => exact .inr ⟨_, _, .commit hp, .complete s _ _ _⟩
    · exact .inl (.refl s)
  | lockDone =>
    unfold State.lockDone
    split
    · next hp => exact .inr ⟨_, _, .lock hp, .complete s _ _ _⟩
    · exact .inl (.refl s)
  | clearBlockDone =>
    unfold State.clearBlockDone
    split
    · next hp => exact .inr ⟨_, _, .clear hp, .trans ⟨rfl, rfl, rfl⟩ (.clearNext _ _ _ _ _)⟩
    · exact .inl (.trans ⟨rfl, rfl, rfl⟩ (.clearNext _ _ _ _ _))
    · exact .inl (.refl s)
  | limitExpiry => exact .inl (.limitExpiry s)

theorem State.Event.power {s t : State} (h : s.Event t) : t.power = s.power := by
  obtain h | ⟨b, f, -, h⟩ := h.sameOutside
  · exact h.1
  · exact h.1

theorem State.Event.pending {s t : State} (h : s.Event t) : t.pending = s.pending := by
  obtain h | ⟨b, f, -, h⟩ := h.sameOutside
  · exact h.2.1
  · exact h.2.1

/-- A command leaves the queue to the step. -/
theorem State.Runs.pending {s t : State} (h : s.Runs t) : t.pending = s.pending := by
  cases h with
  | nothing | cleared => rfl
  | event _ h => exact h.pending
  | startedUp => rw [State.startedUp_frame]
  | poweredUp => rw [State.startedUp_frame]; rfl

/-! ### Every command completes (log entries 1, 6 and 21) -/

theorem State.whenRunning_stopped {s : State} (h : s.power ≠ .running) (t : State) : s.whenRunning t = s := by
  unfold State.whenRunning
  split
  · next hp => exact absurd hp h
  · rfl
  · rfl

/-- A part that does not run takes a hard reset, a loss of power and a start-up only. -/
theorem exec_stopped {s : State} (h : s.power ≠ .running) {c : Instr} (hreset : ∀ cause, c ≠ .hardReset cause)
    (hloss : c ≠ .powerLoss) (hstart : c ≠ .startUp) : exec c s = .next s := by
  cases c with
  | hardReset cause => exact absurd rfl (hreset cause)
  | powerLoss => exact absurd rfl hloss
  | startUp => exact absurd rfl hstart
  | gesture | settleExpiry | attackExpiry | guardExpiry | silenceExpiry | phraseExpiry | glideStepExpiry | tailTimerExpiry
  | hello | tailDone | hold | go | quiesceAck | selection | transmitCompletion | command | commandStart | performerSet
  | performerEnable | performerDisable | performerRead | bind | engineSet | engineRead | voiceRead | arbiterSet | arbiterRead
  | tableErase | tableWrite | tableCommit | tableVerify | tableBlankCheck | tableRead | tableLock | blockRead | storeClear
  | noticeMaskSet | reset | erasureCompletion | writeCompletion | commitCompletion | lockCompletion
  | storeClearBlockCompletion | limitExpiry | receiverFrameCut => exact congrArg _ (State.whenRunning_stopped h _)

theorem step_stopped {s : State} (h : s.power ≠ .running) (hq : s.pending = []) : step s = .next s := by
  simp only [step, hq, idle]
  split
  · next hp => exact absurd hp h
  · rfl
  · rfl

/-- Settles O2: each command's meaning answers one of the few things a command can come to, and none of these touches the
queue. -/
theorem everyCommandCompletes : Obligations.EveryCommandCompletes := by
  unfold Obligations.EveryCommandCompletes
  refine ⟨fun c s => ?_, fun s hp => ⟨step_stopped hp, fun c => exec_stopped hp⟩⟩
  obtain ⟨t, ht, hruns⟩ := exec_runs c s
  exact ⟨t, ht, hruns.pending⟩

/-! ### Table Memory over every step -/

theorem State.storeWf_runs {s t : State} (hs : s.storeWf = true) (hr : s.restartWf = true) (h : s.Runs t) :
    t.storeWf = true := by
  have hblocks := State.blocksWf_of_storeWf hs
  cases h with
  | nothing => exact hs
  | event hp h =>
    have hpower := h.power
    exact (State.storeWf_running (hpower.trans hp)).2
      (State.StoredLawful.event ⟨(State.storeWf_running hp).1 hs, hr⟩ h).1
  | cleared p hp =>
    exact (State.storeWf_stopped (s := s.cleared p) hp).2 ⟨hblocks, rfl, fun i => by rw [State.ctx_cleared]; rfl⟩
  | startedUp hp =>
    obtain ⟨hwf, hprogress, hbindings⟩ := (State.storeWf_stopped (by rw [hp]; decide)).1 hs
    exact (State.storeWf_running s.power_startedUp).2 (State.stored_startedUp hwf hprogress hbindings)
  | poweredUp _ =>
    refine (State.storeWf_running (State.power_startedUp _)).2 (State.stored_startedUp hblocks rfl fun i => ?_)
    rw [State.ctx_cleared]
    rfl

theorem State.advance_bindings (s : State) (i : Slot) : (s.advance.ctx i).bindings = (s.ctx i).bindings := by
  obtain ⟨-, -, -, -, -, -, hctx, -⟩ := s.advance_frame
  obtain h | h := hctx i <;> rw [h]

/-- Settles O6: bindings are only lost but for BIND, which names VALID blocks, and blocks change only as the operation in flight
says. -/
theorem storeLawsKept : Obligations.StoreLawsKept := by
  unfold Obligations.StoreLawsKept
  intro s t hs hr hstep
  obtain ⟨u, htaken, hruns⟩ | ⟨hp, rfl⟩ := step_cases hstep
  · refine State.storeWf_runs ?_ ?_ hruns <;> rw [htaken.frame]
    · exact State.storeWf_of_frame hs rfl rfl rfl rfl
    · exact hr
  · obtain ⟨-, -, hblocks, hmgmt, hpower, -⟩ := s.advance_frame
    refine (State.storeWf_running (hpower.trans hp)).2 ?_
    refine ((State.storeWf_running hp).1 hs).of_within hblocks (by rw [hmgmt]) fun i => ?_
    rw [State.advance_bindings]
    exact Bindings.within_refl _

/-! ### The table in a bound block (R137, R142) -/

/-- The completion of the command in progress does not touch the table in a bound block: it is VALID, and no command but TABLE LOCK
works on a bound block. -/
theorem State.tables_completes {s : State} {b x : BlockId} {f : Block → Block} (hs : s.Stored) (h : s.Completes b f)
    (hx : s.bound x = true) : (s.updBlock b f).tables x = s.tables x := by
  obtain ⟨-, hnamed, hwork, -⟩ := hs
  have hvalid : (s.block x).state = .valid := by
    obtain ⟨i, k, hname⟩ := (State.bound_iff s x).1 hx
    exact (hnamed i k x hname).1
  have hother : x ≠ b → (s.updBlock b f).tables x = s.tables x := fun hne => by
    rw [State.tables, State.updBlock_eq, State.block_setBlock_ne _ _ _ _ hne]
    rfl
  by_cases hxb : x = b
  · subst hxb
    cases h with
    | erasure hp | write hp =>
      have hok := hwork _ hp
      simp only [State.workOk, Bool.and_eq_true, Bool.not_eq_true', hx] at hok
      exact absurd hok.1 Bool.noConfusion
    | commit hp =>
      have hok := hwork _ hp
      simp only [State.workOk, Bool.and_eq_true, beq_iff_eq, hvalid] at hok
      exact absurd hok.1 BlockState.noConfusion
    | lock => rw [State.tables, State.updBlock_eq, State.block_setBlock_same]; rfl
    | clear hp =>
      have hok := hwork _ hp
      simp only [State.workOk, Bool.and_eq_true] at hok
      have := (State.lowestBound_isNone s).1 hok.1 x
      rw [hx] at this
      cases this
  · exact hother hxb

theorem State.tables_runs {s t : State} {b : BlockId} (hs : s.storeWf = true) (hb : s.bound b = true) (h : s.Runs t) :
    t.tables b = s.tables b := by
  have hstopped : s.power ≠ .running → False := fun hp => by
    obtain ⟨-, -, hbindings⟩ := (State.storeWf_stopped hp).1 hs
    obtain ⟨i, k, hname⟩ := (State.bound_iff s b).1 hb
    rw [hbindings i] at hname
    exact absurd (Bindings.absent_within ⟨⟨none, none⟩, ⟨none, none⟩, ⟨none, none⟩⟩ k b hname)
      (by cases k <;> simp [Bindings.namesAt, Bindings.get])
  cases h with
  | nothing | cleared => rfl
  | event hp h =>
    obtain h | ⟨x, f, hcompletes, h⟩ := h.sameOutside
    · rw [h.2.2]
    · rw [h.2.2]
      exact State.tables_completes ((State.storeWf_running hp).1 hs) hcompletes hb
  | startedUp hp => exact (hstopped (by rw [hp]; decide)).elim
  | poweredUp hp => exact (hstopped (by rw [hp]; decide)).elim

/-- Settles O11: only completions touch a table, and the command in progress completes on no bound block but a VALID one that it
locks. -/
theorem boundTableNeverChanges : Obligations.BoundTableNeverChanges := by
  unfold Obligations.BoundTableNeverChanges
  intro s t b hs _ hb hstep
  have htables : t.tables b = s.tables b := by
    obtain ⟨u, htaken, hruns⟩ | ⟨-, rfl⟩ := step_cases hstep
    · have hframe := htaken.frame
      have hu : u.storeWf = true := by
        rw [hframe]
        exact State.storeWf_of_frame hs rfl rfl rfl rfl
      have hub : u.bound b = true := by
        rw [hframe]
        exact hb
      have hub' : u.tables b = s.tables b := by
        rw [hframe]
        rfl
      exact (State.tables_runs hu hub hruns).trans hub'
    · obtain ⟨-, -, hblocks, -⟩ := s.advance_frame
      rw [State.tables_congr hblocks]
  obtain ⟨hcells, hrest⟩ := Prod.ext_iff.1 htables
  obtain ⟨hkind, hstate⟩ := Prod.ext_iff.1 hrest
  exact ⟨hcells, hkind, hstate⟩

end Sys2Proof.Machine
end

section
/-! PROOFS. The machine's own steps: the command at the front of the queue, the clock, expiries of stopped timers, the receivers'
cut, hard reset and start-up (R3, R4, R95, R139, R140, R154, R179). -/

namespace Sys2Proof.Machine

/-! ### The queue and the clock (log entry 1) -/

theorem step_cons {s : State} {c : Instr} {rest : List Instr} (h : s.pending = c :: rest) :
    step s = exec c { s with pending := rest } := by
  simp only [step, h]

/-- Settles O1. -/
theorem stepRunsFrontCommand : Obligations.StepRunsFrontCommand := fun _ _ _ => step_cons

theorem step_advance {s : State} (hq : s.pending = []) (hpower : s.power = .running) (hdue : s.dueEvents = []) :
    step s = .next s.advance := by
  simp only [step, hq, idle, hpower, State.clock, hdue]

/-- With nothing to send, time goes on to the end of the tu (R160). -/
theorem State.advance_of_idle {s : State} (h : s.arbiter.transmitter = none) : s.advance = s.nextTu := by
  have hlater (n : Nat) : s.arbiter.later n = s.arbiter := by
    cases ha : s.arbiter
    simp_all [Arbiter.later]
  have hn : s.nextInterval = byteTimesPerTu - s.phase := by simp only [State.nextInterval, h]
  have hend : byteTimesPerTu ≤ s.phase + (byteTimesPerTu - s.phase) := by omega
  rw [State.advance, hn, hlater]
  exact if_pos hend

/-- Settles O3: nothing due and nothing in flight leaves the whole tu to pass. -/
theorem clockCountsTu : Obligations.ClockCountsTu := by
  intro s hq hpower hdue hidle
  refine ⟨s.nextTu, ?_, fun i => ?_, fun v => ?_, rfl⟩
  · rw [step_advance hq hpower hdue, State.advance_of_idle hidle]
  · exact vec_get _ i
  · exact vec_get _ v

/-! ### The part right after reset (R20, R103, R120, R172, R173) -/

/-- Settles O10. -/
theorem resetIsLawful : Obligations.ResetIsLawful := by
  refine ⟨?_, ?_, ?_, ?_, ?_, ?_, ?_, Memory.wf_reset⟩ <;> decide +kernel

/-! ### Expiries (R4, R95) -/

theorem State.whenRunning_self (s : State) : s.whenRunning s = s := by
  unfold State.whenRunning
  split <;> rfl

theorem exec_settleExpiry (s : State) (i : Slot) (h : s.power = .running) :
    exec (.settleExpiry i) s = .next (s.settleExpiry i) :=
  congrArg Host.Outcome.next (s.whenRunning_running _ h)

theorem exec_phraseExpiry (s : State) (i : Slot) (h : s.power = .running) :
    exec (.phraseExpiry i) s = .next (s.phraseExpiry i) :=
  congrArg Host.Outcome.next (s.whenRunning_running _ h)

theorem exec_tailTimerExpiry (s : State) (v : VoiceId) (h : s.power = .running) :
    exec (.tailTimerExpiry v) s = .next (s.tailExpiry v) :=
  congrArg Host.Outcome.next (s.whenRunning_running _ h)

theorem exec_limitExpiry (s : State) (h : s.power = .running) : exec .limitExpiry s = .next s.limitExpiry :=
  congrArg Host.Outcome.next (s.whenRunning_running _ h)

/-- A row whose meaning leaves the running part as it is leaves every part as it is. -/
theorem next_whenRunning_of_eq {s t : State} (h : t = s) : (.next (s.whenRunning t) : Result) = .next s := by
  rw [h, s.whenRunning_self]

/-- Settles O27: every expiry asks first whether its timer runs. -/
theorem stoppedTimersDoNotExpire : Obligations.StoppedTimersDoNotExpire := by
  intro s
  refine ⟨fun i => ⟨fun h => ?_, fun h => ?_, fun h => ?_, fun h => ?_, fun h => ?_, fun h => ?_⟩, fun v h => ?_, fun h => ?_⟩
  · exact next_whenRunning_of_eq (by simp [State.settleExpiry, h, Timer.running])
  · exact next_whenRunning_of_eq (by simp [State.attackExpiry, h])
  · exact next_whenRunning_of_eq (by simp [State.guardExpiry, h, Timer.running])
  · exact next_whenRunning_of_eq (by simp [State.silenceExpiry, h, Timer.running])
  · exact next_whenRunning_of_eq (by simp [State.phraseExpiry, h, Timer.running])
  · exact next_whenRunning_of_eq (by simp [State.glideStep, h, Timer.running])
  · exact next_whenRunning_of_eq (by simp [State.tailExpiry, h, Timer.running])
  · exact next_whenRunning_of_eq (by simp [State.limitExpiry, h, Timer.running])

theorem State.tailExpiry_releasing {s : State} {v : VoiceId} (hstate : (s.voice v).state = .releasing)
    (htimer : (s.voice v).tailTimer ≠ none) :
    s.tailExpiry v = (s.setVoice v (s.voice v).tailOver).offer (.tailTimeout v) := by
  have hruns : (s.voice v).tailTimer.running = true := Option.isSome_iff_ne_none.2 htimer
  simp only [State.tailExpiry, hruns, hstate, State.updVoice_eq, if_true]

/-- Settles O34. -/
theorem tailExpiryFreesVoice : Obligations.TailExpiryFreesVoice := by
  intro s v hpower hstate htimer
  rw [exec_tailTimerExpiry s v hpower, State.tailExpiry_releasing hstate htimer]
  rfl

/-! ### The receivers' cut (R154) -/

theorem exec_receiverFrameCut (s : State) (l : Link) (bytes : List Byte) (h : s.power = .running) :
    exec (.receiverFrameCut l bytes) s = .next (s.bytesOn l bytes) :=
  congrArg Host.Outcome.next (s.whenRunning_running _ h)

theorem State.setReceiver_same (s : State) (l : Link) : s.setReceiver l (s.receiver l) = s := by
  cases l <;> rfl

/-- Settles O15: what a receiver has collected grows below 48 bytes and is gone at the 48th. -/
theorem frameCutAt48Bytes : Obligations.FrameCutAt48Bytes := by
  intro s l bytes hpower hcollected
  have hreceiver (waiting : Bool) (h : (s.receiver l).awaitingIdle = waiting) : s.receiver l = ⟨[], waiting⟩ := by
    rw [← hcollected, ← h]
  rw [exec_receiverFrameCut s l bytes hpower, State.bytesOn]
  refine ⟨fun hfree hshort => ?_, fun hfree hlong => ?_, fun hwaiting => ?_⟩
  · rw [hreceiver false hfree, Receiver.takeBytes_collecting bytes [] (by simp), if_pos (by simpa using hshort), List.nil_append]
  · rw [hreceiver false hfree, Receiver.takeBytes_collecting bytes [] (by simp),
      if_neg (by simpa using hlong)]
  · rw [Receiver.takeBytes_waiting _ _ hwaiting, s.setReceiver_same]

/-! ### Hard reset, loss of power, start-up (R139, R140, R179) -/

theorem State.hardReset_short (s : State) {d : Nat} (h : d < 10) : s.hardReset (.line d) = s := if_pos h

theorem State.hardReset_line {s : State} {d : Nat} (h : 10 ≤ d) (hpower : s.power ≠ .off) :
    s.hardReset (.line d) = s.cleared .inReset := by
  have hlong : ¬ d < 10 := by omega
  simp only [State.hardReset, hlong, if_false]
  cases hp : s.power with
  | running => rfl
  | inReset => rfl
  | off => exact absurd hp hpower

/-- Settles O59. -/
theorem hardResetClearsVolatileState : Obligations.HardResetClearsVolatileState := by
  intro s
  refine ⟨fun d hd => ?_, fun d hd hpower => ?_, rfl, rfl⟩
  · exact congrArg Host.Outcome.next (s.hardReset_short hd)
  · exact congrArg Host.Outcome.next (State.hardReset_line hd hpower)

/-- A set of numbers below `n` with one more. -/
theorem getLsbD_or_twoPow {n : Nat} (x : BitVec n) (b c : Fin n) :
    (x ||| BitVec.twoPow n b.val).getLsbD c.val = (x.getLsbD c.val || decide (c = b)) := by
  have hb : decide (b.val < n) = true := decide_eq_true b.isLt
  rw [BitVec.getLsbD_or, BitVec.getLsbD_twoPow, hb, Bool.true_and]
  congr 1
  exact decide_eq_decide.2 ⟨fun h => Fin.ext h.symm, fun h => congrArg Fin.val h.symm⟩

/-- A set of numbers below `n` with those of a list more that have a property. -/
theorem getLsbD_foldl_or_twoPow {n : Nat} (p : Fin n → Bool) (l : List (Fin n)) (x : BitVec n) (c : Fin n) :
    (l.foldl (fun x b => if p b then x ||| BitVec.twoPow n b.val else x) x).getLsbD c.val =
      (x.getLsbD c.val || (decide (c ∈ l) && p c)) := by
  induction l generalizing x with
  | nil => simp
  | cons b l ih =>
    have hstep : (if p b then x ||| BitVec.twoPow n b.val else x).getLsbD c.val =
        (x.getLsbD c.val || (decide (c = b) && p c)) := by
      split
      · next hp =>
        rw [getLsbD_or_twoPow]
        by_cases hb : c = b
        · rw [hb, hp, decide_eq_true rfl, Bool.true_and]
        · rw [decide_eq_false hb, Bool.false_and]
      · next hp =>
        by_cases hb : c = b
        · rw [hb, Bool.eq_false_iff.2 hp, Bool.and_false, Bool.or_false]
        · rw [decide_eq_false hb, Bool.false_and, Bool.or_false]
    rw [List.foldl_cons, ih, hstep, Bool.or_assoc, ← Bool.and_or_distrib_right]
    simp only [List.mem_cons, Bool.decide_or]

/-- The set of the numbers below `n` with a property holds exactly those. -/
theorem getLsbD_foldl_finRange {n : Nat} (p : Fin n → Bool) (c : Fin n) :
    ((List.finRange n).foldl (fun x b => if p b then x ||| BitVec.twoPow n b.val else x) (0 : BitVec n)).getLsbD c.val =
      p c := by
  rw [getLsbD_foldl_or_twoPow, decide_eq_true (List.mem_finRange c), Bool.true_and]
  simp

theorem BlockSet.getLsbD_insert (x : BlockSet) (b c : BlockId) :
    (BlockSet.insert x b).getLsbD c.val = (x.getLsbD c.val || decide (c = b)) := getLsbD_or_twoPow x b c

theorem BlockSet.getLsbD_ofPred (p : BlockId → Bool) (c : BlockId) : (BlockSet.ofPred p).getLsbD c.val = p c :=
  getLsbD_foldl_finRange p c

theorem State.getLsbD_interruptedBlocks (s : State) (b : BlockId) :
    s.interruptedBlocks.getLsbD b.val = (s.block b).op.isSome := BlockSet.getLsbD_ofPred _ b

theorem State.interruptedBlocks_eq_zero_iff (s : State) : s.interruptedBlocks = 0 ↔ ∀ b, (s.block b).op = none := by
  constructor
  · intro h b
    have hb := s.getLsbD_interruptedBlocks b
    simpa [h] using hb.symm
  · intro h
    refine BitVec.eq_of_getLsbD_eq fun n hn => ?_
    have hb := s.getLsbD_interruptedBlocks ⟨n, hn⟩
    simpa [h ⟨n, hn⟩] using hb

theorem State.startedUp_mgmt (s : State) : s.startedUp.mgmt =
    if s.interruptedBlocks = 0 then s.mgmt else s.mgmt.offer (.storeInterrupted s.interruptedBlocks) := by
  simp only [State.startedUp]
  split <;> rfl

theorem State.startedUp_outsideStore (s : State) :
    s.startedUp = { s with
      timebase := 0
      broadcastHush := true
      power := .running
      blocks := s.startedUp.blocks
      mgmt := s.startedUp.mgmt } := by
  simp only [State.startedUp]
  split <;> rfl

/-- Settles O60: the marked blocks are exactly the set that the notice names. -/
theorem startUpMarksInterruptedBlocks : Obligations.StartUpMarksInterruptedBlocks := by
  refine ⟨fun s hpower => ⟨s.startedUp, ?_, s.startedUp_outsideStore, fun b => ?_, fun hnone => ?_, fun b hb => ?_⟩,
    fun s => ⟨fun hpower => ?_, fun u hoff hu => ?_⟩⟩
  · simp only [exec, execStartUp, State.startUp, hpower]
  · rw [s.block_startedUp]
    cases hop : (s.block b).op <;> simp [Block.interrupted]
  · rw [s.startedUp_mgmt, if_pos (s.interruptedBlocks_eq_zero_iff.2 hnone)]
  · refine ⟨s.interruptedBlocks, s.getLsbD_interruptedBlocks, ?_⟩
    rw [s.startedUp_mgmt, if_neg fun h => hb (s.interruptedBlocks_eq_zero_iff.1 h b)]
  · simp only [exec, execStartUp, State.startUp, hpower]
  · cases hu
    simp only [exec, execStartUp, State.startUp, hoff]
    rfl

end Sys2Proof.Machine
end

section
/-! PROOFS. The frames of the links: those that pass and those that are discarded without trace (R154 to R158, R161, R162), the
engines' HOLD and GO (R98), and the frames that the part sends (R104, R155, R160). -/

namespace Sys2Proof.Machine

/-! ### Frames that pass (R156, R158) -/

theorem judgeGestureLink_command {first : Byte} {rest : List Byte} (hcheck : checkHolds (first :: rest) = true)
    (hkind : kindOf first = 2) : judgeGestureLink (first :: rest) = judgeCommand first (first :: rest) := by
  simp [judgeGestureLink, hcheck, hkind]

/-- A COMMAND frame with at most 40 parameters is judged to carry its command (R156). -/
theorem judgeGestureLink_commandFrame (tag code : Byte) {params : List Byte} (h : params.length ≤ 40) :
    judgeGestureLink (commandFrame tag code params) = some (.command ⟨tag, code, params⟩) := by
  have hcheck : checkHolds (commandFrame tag code params) = true := checkHolds_closed _
  have hcount : u8At (commandFrame tag code params) 3 = params.length := toNat_byte (by omega)
  have hlength : (commandFrame tag code params).length = 5 + params.length := by simp [commandFrame, closed]; omega
  have hparams : ((commandFrame tag code params).drop 4).take params.length = params := List.take_left' rfl
  have hjudged : judgeCommand 0x2F (commandFrame tag code params) = some (.command ⟨tag, code, params⟩) := by
    rw [judgeCommand, hcount, hparams, if_pos ⟨by decide, by omega, h, hlength⟩]
    rfl
  exact (judgeGestureLink_command hcheck (by decide)).trans hjudged

theorem judgeVoiceLink_engineFrame {kind : Nat} (e : EngineId) (body : List Byte) (hkind : kind < 16) :
    judgeVoiceLink (engineFrame kind e body) = judgeEngineFrame e kind (engineFrame kind e body) :=
  (judgeVoiceLink_closed body hkind (by omega)).trans (dif_pos e.isLt)

theorem judgeVoiceLink_helloFrame (e : EngineId) {n : Nat} (hlow : 1 ≤ n) (hhigh : n ≤ 24) :
    judgeVoiceLink (engineFrame 1 e [byte n]) = some (.hello e n) := by
  have hcount : u8At (engineFrame 1 e [byte n]) 1 = n := toNat_byte (by omega)
  rw [judgeVoiceLink_engineFrame e _ (by decide), judgeEngineFrame, hcount]
  exact if_pos ⟨rfl, hlow, hhigh⟩

theorem judgeVoiceLink_holdFrame (e : EngineId) : judgeVoiceLink (engineFrame 3 e []) = some (.hold e) :=
  judgeVoiceLink_engineFrame e [] (by decide)

theorem judgeVoiceLink_goFrame (e : EngineId) : judgeVoiceLink (engineFrame 4 e []) = some (.go e) :=
  judgeVoiceLink_engineFrame e [] (by decide)

theorem judgeVoiceLink_quiesceAckFrame (e : EngineId) : judgeVoiceLink (engineFrame 5 e []) = some (.quiesceAck e) :=
  judgeVoiceLink_engineFrame e [] (by decide)

/-- Settles O12. -/
theorem inboundFramesAreRead : Obligations.InboundFramesAreRead := by
  refine ⟨fun i g => judgeGestureLink_gestureFrame i, fun tag code _ => judgeGestureLink_commandFrame tag code, fun e =>
    ⟨fun n => judgeVoiceLink_helloFrame e, fun n tag => ?_, judgeVoiceLink_holdFrame e, judgeVoiceLink_goFrame e,
      judgeVoiceLink_quiesceAckFrame e⟩⟩
  rw [← tailDoneFrame_engine]
  exact judgeVoiceLink_tailDoneFrame_voice e n tag

/-! ### An engine's frame on the quiet link (R154, R158) -/

/-- What a frame of an engine does that passes on the quiet inbound Voice Link. -/
theorem State.receive_engineFrame {s : State} {kind : Nat} {e : EngineId} {body : List Byte} {f : EngineFrame}
    (hs : s.linesQuiet) (hshort : body.length < 46) (h : judgeVoiceLink (engineFrame kind e body) = some f) :
    s.whenRunning (s.receive .voice (kindByte kind (BitVec.ofNat 4 e.val).toNat :: (engineFrame kind e body).tail)) =
      (s.heard .voice).routeVoiceLink f := by
  have hframe : kindByte kind (BitVec.ofNat 4 e.val).toNat :: (engineFrame kind e body).tail = engineFrame kind e body := by
    rw [BitVec.toNat_ofNat, Nat.mod_eq_of_lt (by omega)]
    rfl
  have hlength : (engineFrame kind e body).length = body.length + 2 := by simp [engineFrame, closed]
  rw [hframe, State.whenRunning_receive .voice hs (by omega)]
  simp only [State.judgeFrame, h]

theorem exec_hold {s : State} (e : EngineId) (hs : s.linesQuiet) :
    exec (.hold (BitVec.ofNat 4 e.val) (engineFrame 3 e []).tail) s = .next ((s.heard .voice).setHeld e true) :=
  congrArg Host.Outcome.next (State.receive_engineFrame hs (by decide) (judgeVoiceLink_holdFrame e))

theorem exec_go {s : State} (e : EngineId) (hs : s.linesQuiet) :
    exec (.go (BitVec.ofNat 4 e.val) (engineFrame 4 e []).tail) s = .next ((s.heard .voice).setHeld e false) :=
  congrArg Host.Outcome.next (State.receive_engineFrame hs (by decide) (judgeVoiceLink_goFrame e))

theorem State.setHeld_present {s : State} {e : EngineId} (held : Bool) (h : (s.engine e).present = true) :
    s.setHeld e held = s.setEngine e { s.engine e with held := held } := if_pos h

theorem State.setHeld_absent {s : State} {e : EngineId} (held : Bool) (h : (s.engine e).present = false) :
    s.setHeld e held = s := if_neg (Bool.eq_false_iff.1 h)

/-- Settles O37. -/
theorem holdAndGoSetHeld : Obligations.HoldAndGoSetHeld := by
  intro s e hs
  rw [exec_hold e hs, exec_go e hs]
  refine ⟨fun hpresent => ?_, fun habsent => ?_⟩
  · rw [State.setHeld_present (s := s.heard .voice) true hpresent, State.setHeld_present (s := s.heard .voice) false hpresent]
    exact ⟨rfl, rfl⟩
  · rw [State.setHeld_absent (s := s.heard .voice) true habsent, State.setHeld_absent (s := s.heard .voice) false habsent]
    exact ⟨rfl, rfl⟩

/-! ### Frames that are discarded (R156, R158) -/

theorem judgeGestureLink_unsound {frame : List Byte} (h : checkHolds frame = false) : judgeGestureLink frame = none := by
  cases frame with
  | nil => rfl
  | cons first rest => simp [judgeGestureLink, h]

theorem judgeGestureLink_otherKind {first : Byte} (body : List Byte) (h1 : kindOf first ≠ 1) (h2 : kindOf first ≠ 2) :
    judgeGestureLink (first :: body) = none := by
  simp [judgeGestureLink, h1, h2]

theorem judgeGesture_outside {first : Byte} {frame : List Byte} (h : 8 ≤ addressOf first ∨ frame.length ≠ 10 ∨
    (gestureOf frame).octave < -3 ∨ 3 < (gestureOf frame).octave ∨ 1023 < (gestureOf frame).breath) :
    judgeGesture first frame = none := by
  unfold judgeGesture
  split
  · exact if_neg (by omega)
  · rfl

theorem judgeCommand_outside {first : Byte} {frame : List Byte} (h : addressOf first ≠ 15 ∨ frame.length < 5 ∨
    40 < u8At frame 3 ∨ frame.length ≠ 5 + u8At frame 3) : judgeCommand first frame = none := if_neg (by omega)

/-- A frame of kind 1 on the Gesture Link is discarded when its check fails or the tests of GESTURE do. -/
theorem judgeGestureLink_gesture_none {a : BitVec 4} {rest : List Byte}
    (h : checkHolds (kindByte 1 a.toNat :: rest) = false ∨
      judgeGesture (kindByte 1 a.toNat) (kindByte 1 a.toNat :: rest) = none) :
    judgeGestureLink (kindByte 1 a.toNat :: rest) = none := by
  cases hcheck : checkHolds (kindByte 1 a.toNat :: rest) with
  | false => exact judgeGestureLink_unsound hcheck
  | true =>
    rw [judgeGestureLink_gesture hcheck (kindOf_kindByte (by decide) a.isLt)]
    exact h.resolve_left (by simp [hcheck])

/-- A frame of kind 2 on the Gesture Link is discarded when its check fails or the tests of COMMAND do. -/
theorem judgeGestureLink_command_none {a : BitVec 4} {rest : List Byte}
    (h : checkHolds (kindByte 2 a.toNat :: rest) = false ∨
      judgeCommand (kindByte 2 a.toNat) (kindByte 2 a.toNat :: rest) = none) :
    judgeGestureLink (kindByte 2 a.toNat :: rest) = none := by
  cases hcheck : checkHolds (kindByte 2 a.toNat :: rest) with
  | false => exact judgeGestureLink_unsound hcheck
  | true =>
    rw [judgeGestureLink_command hcheck (kindOf_kindByte (by decide) a.isLt)]
    exact h.resolve_left (by simp [hcheck])

theorem judgeEngineFrame_otherKind {kind : Nat} (e : EngineId) (frame : List Byte) (h : kind < 1 ∨ 5 < kind) :
    judgeEngineFrame e kind frame = none := by
  match kind, h with
  | 0, _ => rfl
  | _ + 6, _ => rfl

theorem judgeVoiceLink_otherKind {first : Byte} (body : List Byte) (h : kindOf first < 1 ∨ 5 < kindOf first) :
    judgeVoiceLink (first :: body) = none := by
  simp only [judgeVoiceLink, judgeEngineFrame_otherKind _ _ h]
  split
  · rfl
  · split <;> rfl

/-- A frame on the inbound Voice Link is discarded when its check fails, no engine has its number, or its kind's tests fail. -/
theorem judgeVoiceLink_none {kind : Nat} {a : BitVec 4} {rest : List Byte} (hkind : kind < 16)
    (h : checkHolds (kindByte kind a.toNat :: rest) = false ∨ 4 ≤ a.toNat ∨
      ∀ e, judgeEngineFrame e kind (kindByte kind a.toNat :: rest) = none) :
    judgeVoiceLink (kindByte kind a.toNat :: rest) = none := by
  simp only [judgeVoiceLink, kindOf_kindByte hkind a.isLt, addressOf_kindByte hkind a.isLt]
  split
  · rfl
  · next hcheck =>
    split
    · next haddress =>
      obtain hunsound | hnone | hjudged := h
      · exact absurd (by simp [hunsound]) hcheck
      · omega
      · exact hjudged _
    · rfl

theorem State.judgeFrame_gesture_none {frame : List Byte} (h : judgeGestureLink frame = none) (t : State) :
    t.judgeFrame .gesture frame = t := by
  simp only [State.judgeFrame, h]

theorem State.judgeFrame_voice_none {frame : List Byte} (h : judgeVoiceLink frame = none) (t : State) :
    t.judgeFrame .voice frame = t := by
  simp only [State.judgeFrame, h]

theorem State.receive_gesture_none {s : State} {frame : List Byte} (hs : s.linesQuiet) (h : judgeGestureLink frame = none) :
    (.next (s.whenRunning (s.receive .gesture frame)) : Result) = .next (s.heard .gesture) := by
  rw [s.whenRunning_running _ hs.1, s.receive_discarded _ _ hs (State.judgeFrame_gesture_none h)]

theorem State.receive_voice_none {s : State} {frame : List Byte} (hs : s.linesQuiet) (h : judgeVoiceLink frame = none) :
    (.next (s.whenRunning (s.receive .voice frame)) : Result) = .next (s.heard .voice) := by
  rw [s.whenRunning_running _ hs.1, s.receive_discarded _ _ hs (State.judgeFrame_voice_none h)]

/-- What stands collected and is discarded goes with the idle line before the next frame (log entry 10). -/
theorem State.receive_of_heard {s : State} {l : Link} (h : ∀ t : State, t.judgeFrame l (s.receiver l).collected = t)
    (frame : List Byte) : s.receive l frame = (s.heard l).receive l frame := by
  have hbefore : s.lineIdle l = s.heard l := h _
  have hafter : (s.heard l).lineIdle l = s.heard l := by
    rw [State.lineIdle, State.heard, State.receiver_setReceiver, State.setReceiver_setReceiver]
    exact State.judgeFrame_nil _ l
  rw [State.receive, State.receive, hbefore, hafter]

theorem State.heard_power (s : State) (l : Link) : (s.heard l).power = s.power := s.setReceiver_power l _

theorem State.whenRunning_receive_of_heard {s : State} {l : Link} (hpower : s.power = .running)
    (h : ∀ t : State, t.judgeFrame l (s.receiver l).collected = t) (frame : List Byte) :
    (.next (s.whenRunning (s.receive l frame)) : Result) =
      .next ((s.heard l).whenRunning ((s.heard l).receive l frame)) := by
  rw [s.whenRunning_running _ hpower, (s.heard l).whenRunning_running _ ((s.heard_power l).trans hpower),
    State.receive_of_heard h]

/-- A GESTURE frame with a content in range on the quiet Gesture Link is routed (R156, R157). -/
theorem exec_gestureCommand_routed {s : State} (i : Slot) {g : Gesture} (hs : s.linesQuiet) (h : g.inRange) :
    exec (gestureCommand i g) s = .next ((s.heard .gesture).routeGestureLink (.gesture i g)) := by
  have hframe : kindByte 1 (BitVec.ofNat 4 i.val).toNat :: (gestureFrame i g).tail = gestureFrame i g := by
    rw [BitVec.toNat_ofNat, Nat.mod_eq_of_lt (by omega)]
    rfl
  have hlength : (gestureFrame i g).length = 10 := rfl
  calc exec (gestureCommand i g) s
      = .next (s.whenRunning (s.receive .gesture
          (kindByte 1 (BitVec.ofNat 4 i.val).toNat :: (gestureFrame i g).tail))) := rfl
    _ = .next ((s.heard .gesture).routeGestureLink (.gesture i g)) := by
      rw [hframe, State.whenRunning_receive .gesture hs (by omega)]
      simp only [State.judgeFrame, judgeGestureLink_gestureFrame i h]

theorem State.routeGestureLink_unheard {s : State} {i : Slot} (g : Gesture)
    (h : s.quiesce.phase = .quiescing ∨ (s.ctx i).enabled = false) : s.routeGestureLink (.gesture i g) = s := by
  obtain hphase | hdisabled := h
  · simp only [State.routeGestureLink, hphase]
  · have hat : s.gestureAt i g = s := if_neg (by simp [hdisabled])
    simp only [State.routeGestureLink, hat]
    split <;> rfl

/-- Settles O13. -/
theorem discardedFramesLeaveNoTrace : Obligations.DiscardedFramesLeaveNoTrace := by
  refine ⟨fun s a rest hs => ?_, fun s first body a rest hpower => ⟨fun hcollected h1 h2 => ?_, fun hcollected hkind => ?_⟩,
    fun s i g hs hg hunheard => ?_⟩
  · have haddress (k : Nat) (hk : k < 16) : addressOf (kindByte k a.toNat) = a.toNat := addressOf_kindByte hk a.isLt
    have hnot15 (h : a ≠ 15) : a.toNat ≠ 15 := fun h15 => h (BitVec.eq_of_toNat_eq h15)
    refine ⟨fun h => ?_, fun k1 k2 k3 octave b1 b2 bite lip check hrest h => ?_, fun h => ?_, fun tag code n tail hrest h => ?_,
      fun h => ?_, fun n check hrest h => ?_, fun h => ?_, fun n tag check hrest h => ?_, fun h => ?_, fun h => ?_, fun h => ?_⟩
    · refine State.receive_gesture_none hs (judgeGestureLink_gesture_none (h.imp_right fun h => judgeGesture_outside ?_))
      rw [haddress 1 (by decide), List.length_cons]
      omega
    · subst hrest
      exact State.receive_gesture_none hs (judgeGestureLink_gesture_none (.inr (judgeGesture_outside (.inr (.inr h)))))
    · refine State.receive_gesture_none hs (judgeGestureLink_command_none (h.imp_right fun h => judgeCommand_outside ?_))
      rw [haddress 2 (by decide), List.length_cons]
      exact h.imp hnot15 fun h => .inl (by omega)
    · subst hrest
      refine State.receive_gesture_none hs (judgeGestureLink_command_none (.inr (judgeCommand_outside (.inr (.inr ?_)))))
      exact h.imp_right fun h => by
        simp only [List.length_cons]
        exact fun hlength => h (by change _ = 5 + n.toNat at hlength; omega)
    · exact State.receive_voice_none hs (judgeVoiceLink_none (by decide) (h.imp_right (.imp_right fun h e =>
        if_neg fun hall => h (Nat.succ.inj hall.1))))
    · subst hrest
      refine State.receive_voice_none hs (judgeVoiceLink_none (by decide) (.inr (.inr fun e => if_neg fun hall => ?_)))
      have hlow : 1 ≤ n.toNat := hall.2.1
      have hhigh : n.toNat ≤ 24 := hall.2.2
      obtain rfl | h := h
      · exact absurd hlow (by decide)
      · omega
    · exact State.receive_voice_none hs (judgeVoiceLink_none (by decide) (h.imp_right (.imp_right fun h e =>
        if_neg fun hall => h (Nat.succ.inj hall))))
    · subst hrest
      refine State.receive_voice_none hs (judgeVoiceLink_none (by decide) (.inr (.inr fun e => ?_)))
      have hn : indexOf 24 n = none := indexOf_outside n h
      change Option.map _ (indexOf 24 n) = none
      rw [hn, Option.map_none]
    · exact State.receive_voice_none hs (judgeVoiceLink_none (by decide) (h.imp_right (.imp_right fun h e =>
        if_neg fun hall => h (Nat.succ.inj hall))))
    · exact State.receive_voice_none hs (judgeVoiceLink_none (by decide) (h.imp_right (.imp_right fun h e =>
        if_neg fun hall => h (Nat.succ.inj hall))))
    · exact State.receive_voice_none hs (judgeVoiceLink_none (by decide) (h.imp_right (.imp_right fun h e =>
        if_neg fun hall => h (Nat.succ.inj hall))))
  · have hnone : ∀ t : State, t.judgeFrame .gesture (s.receiver .gesture).collected = t := by
      rw [show (s.receiver .gesture).collected = first :: body from hcollected]
      exact State.judgeFrame_gesture_none (judgeGestureLink_otherKind body h1 h2)
    exact ⟨State.whenRunning_receive_of_heard hpower hnone _, State.whenRunning_receive_of_heard hpower hnone _⟩
  · have hnone : ∀ t : State, t.judgeFrame .voice (s.receiver .voice).collected = t := by
      rw [show (s.receiver .voice).collected = first :: body from hcollected]
      exact State.judgeFrame_voice_none (judgeVoiceLink_otherKind body hkind)
    simp only [List.forall_mem_cons, List.not_mem_nil, false_imp_iff, implies_true, and_true]
    exact ⟨State.whenRunning_receive_of_heard hpower hnone _, State.whenRunning_receive_of_heard hpower hnone _,
      State.whenRunning_receive_of_heard hpower hnone _, State.whenRunning_receive_of_heard hpower hnone _,
      State.whenRunning_receive_of_heard hpower hnone _⟩
  · rw [exec_gestureCommand_routed i hs hg, State.routeGestureLink_unheard (s := s.heard .gesture) g hunheard]

/-! ### Frames that are sent (R104, R155, R160) -/

/-- What a class would serve gives a frame closed by its check value, of at least two bytes (R155, R162). -/
theorem State.takeItem_closed {s : State} {c : ServiceClass} {item : Item} (h : s.nextItem c = some item) :
    ∃ body, body ≠ [] ∧ (s.takeItem c item).1 = closed body := by
  cases c with
  | start =>
    obtain ⟨v, rfl, -, -, p, q, hv | hv⟩ := State.nextItem_voiceClass h
    all_goals
      simp only [State.takeItem, State.takeVoice, hv]
      exact ⟨_, List.cons_ne_nil _ _, rfl⟩
  | ending | pitch | level | timbre =>
    obtain ⟨v, rfl, -⟩ := State.nextItem_voiceClass h
    exact ⟨_, List.cons_ne_nil _ _, rfl⟩
  | control =>
    change s.nextControl = some item at h
    unfold State.nextControl at h
    split at h
    · cases h
      exact ⟨_, List.cons_ne_nil _ _, rfl⟩
    · obtain ⟨e, -, he⟩ := List.exists_of_findSome?_eq_some h
      obtain ⟨f, -, rfl⟩ := Option.map_eq_some_iff.1 he
      cases f <;> exact ⟨_, List.cons_ne_nil _ _, rfl⟩
  | reply =>
    change (if s.mgmt.replyReady then some Item.reply else none) = some item at h
    split at h
    · next hready =>
      cases h
      obtain ⟨⟨tag, code, result⟩, rest, hreplies, hbuilt⟩ := s.mgmt.replyReady_iff.1 hready
      obtain ⟨r, rfl⟩ := Option.ne_none_iff_exists'.1 hbuilt
      simp only [State.takeItem, State.takeReply, hreplies]
      exact ⟨_, List.cons_ne_nil _ _, rfl⟩
    · cases h
  | notice =>
    change (if s.mgmt.notices.isEmpty then none else some Item.notice) = some item at h
    split at h
    · cases h
    · next hnotices =>
      cases h
      cases hn : s.mgmt.notices with
      | nil => simp [hn] at hnotices
      | cons n rest =>
        simp only [State.takeItem, State.takeNotice_cons hn]
        exact ⟨_, List.cons_ne_nil _ _, rfl⟩

theorem State.transmitter_take (s : State) (ch : Choice) : (s.take ch).arbiter.transmitter =
    some ⟨ch.cls, (s.takeItem ch.cls ch.item).1, (s.takeItem ch.cls ch.item).1.length + 3⟩ := rfl

theorem State.onlySection.arbiter {s t : State} (h : s.onlySection t) : t.arbiter = s.arbiter := by rw [h]

theorem State.Prompt.transmitter {s t : State} (h : s.Prompt t) : t.arbiter.transmitter = s.arbiter.transmitter := by
  cases h with
  | disable i => rw [(s.path_disable i).onlySection.arbiter]
  | bind i k target timing => rw [(s.onlySection_bindAt i k target timing).arbiter]
  | unchanged | settings | enable | tailLimit | arbiter | mask => rfl

theorem State.sectionEffects_arbiter (s : State) : s.sectionEffects.arbiter = s.arbiter := by
  have hsection := forEach_onlySection slots (fun i s => s.applyAll i .atRest) (s.mapContexts fun _ c => c.afterSection)
    fun i t => t.onlySection_applyAll i .atRest
  unfold State.sectionEffects
  dsimp only
  rw [State.mapVoices_arbiter, hsection.arbiter, State.mapContexts_arbiter]

theorem State.transmitter_quiesceEnd (s : State) (forced : Bool) (hushed : EngineSet) :
    (s.quiesceEnd forced hushed).arbiter.transmitter = s.arbiter.transmitter := by
  change (s.demand hushed .hush).resetEffects.arbiter.transmitter = (s.demand hushed .hush).arbiter.transmitter
  unfold State.resetEffects
  split
  · rw [State.sectionEffects_arbiter]
  · rfl
  · rfl

theorem State.transmitter_quiesceTest (s : State) : s.quiesceTest.arbiter.transmitter = s.arbiter.transmitter := by
  unfold State.quiesceTest
  split
  · exact s.transmitter_quiesceEnd false 0
  · rfl

/-- No command touches the frame in flight: the arbiter's reset keeps it (R120). -/
theorem State.transmitter_startHeld (s : State) (c : Cmd) :
    (s.startHeld c).arbiter.transmitter = s.arbiter.transmitter := by
  have h := s.startHeld_starts c
  generalize s.startHeld c = u at h ⊢
  cases h with
  | refused cause data => rfl
  | done h data => exact h.transmitter
  | going h hw =>
    rw [h.frame hw]
    rfl
  | reset kind limit _ =>
    rw [State.transmitter_quiesceTest, State.quiesceBegin_frame]
    rfl

theorem State.transmitter_startWaiting (s : State) : s.startWaiting.arbiter.transmitter = s.arbiter.transmitter :=
  State.startWaiting_keeps (P := fun t => t.arbiter.transmitter = s.arbiter.transmitter)
    (fun t c rest ht _ _ _ => ((t.hold c rest).transmitter_startHeld c).trans ht) rfl

theorem State.transmitter_afterQuiesceEvent (s : State) :
    s.afterQuiesceEvent.arbiter.transmitter = s.arbiter.transmitter := by
  unfold State.afterQuiesceEvent
  split
  · exact s.quiesceTest.transmitter_startWaiting.trans s.transmitter_quiesceTest
  · rfl

/-- A selection leaves the frame of its choice in flight, whatever it starts besides. -/
theorem State.transmitter_selection {s : State} {ch : Choice} (hidle : s.arbiter.transmitter = none)
    (hchoice : s.choice = some ch) : s.selection.arbiter.transmitter = (s.take ch).arbiter.transmitter := by
  rw [s.selection_eq ch hidle hchoice]
  split
  · exact (s.take ch).transmitter_startWaiting
  · exact (s.take ch).transmitter_afterQuiesceEvent
  all_goals rfl

theorem exec_selection_none {s : State} (hidle : s.arbiter.transmitter = none) (hchoice : s.choice = none) :
    exec .selection s = .next s := by
  have hselect : s.selection = s := by simp only [State.selection, State.selectable, hidle, hchoice]
  exact next_whenRunning_of_eq hselect

/-- Settles O14. -/
theorem transmissionRunsToCompletion : Obligations.TransmissionRunsToCompletion := by
  refine ⟨fun s t f hidle ht hf => ?_, fun s hpower => congrArg Host.Outcome.next (s.whenRunning_running _ hpower)⟩
  by_cases hpower : s.power = .running
  · cases hchoice : s.choice with
    | none =>
      rw [exec_selection_none hidle hchoice] at ht
      cases ht
      rw [hidle] at hf
      cases hf
    | some ch =>
      rw [exec_selection s hpower] at ht
      cases ht
      rw [State.transmitter_selection hidle hchoice, State.transmitter_take] at hf
      cases hf
      obtain ⟨body, hbody, hframe⟩ := State.takeItem_closed (State.choice_nextItem hchoice)
      rw [hframe]
      have hlength : 0 < body.length := List.length_pos_of_ne_nil hbody
      refine ⟨checkHolds_closed body, ?_, rfl⟩
      simp only [closed, List.length_append, List.length_singleton]
      omega
  · have hstopped := exec_stopped hpower (c := .selection) nofun nofun nofun
    rw [hstopped] at ht
    cases ht
    rw [hidle] at hf
    cases hf

end Sys2Proof.Machine
end

section
/-! PROOFS. The Transmit Arbiter: the order of selection (R105 to R114), the broadcast HUSH and the engines' control frames (R110,
R114, R115, R176), and the frames of the voices (R81, R91, R115). -/

namespace Sys2Proof.Machine

/-! ### The order of selection (R110 to R112) -/

theorem State.expressChoice_some {s : State} {ch : Choice} (h : s.expressChoice = some ch) :
    s.arbiter.express = some ch.cls ∧ s.nextItem ch.cls = some ch.item ∧ ch.band = none := by
  obtain ⟨c, hexpress, hc⟩ := Option.bind_eq_some_iff.1 h
  obtain ⟨item, hitem, rfl⟩ := Option.map_eq_some_iff.1 hc
  exact ⟨hexpress, hitem, rfl⟩

theorem State.expressChoice_none {s : State} {c : ServiceClass} (h : s.expressChoice = none)
    (hc : s.arbiter.express = some c) : ¬ s.classEligible c := by
  rw [State.expressChoice, hc, Option.bind_some, Option.map_eq_none_iff] at h
  exact (s.nextItem_none c).1 h

theorem Arbiter.member_iff (a : Arbiter) (b : Band) (c : ServiceClass) :
    a.member b c = true ↔ a.bands.get c = b ∧ a.express ≠ some c := by
  simp [Arbiter.member]

/-- The first band that has something to serve has the least code of those that have. -/
theorem findSome_bands {α : Type} {f : Band → Option α} {x : α}
    (h : [Band.high, Band.mid, Band.low].findSome? f = some x) :
    ∃ b, f b = some x ∧ ∀ b', f b' ≠ none → b.code ≤ b'.code := by
  obtain ⟨b, -, hb, hleast⟩ := findSome_least (fun b : Band => b.code.toNat) _ (by decide) f x h
  exact ⟨b, hb, fun b' hb' => BitVec.le_def.2 (hleast b' (by cases b' <;> simp) hb')⟩

/-- A choice is the express class's, or with nothing express that of the first band that has one. -/
theorem State.choice_cases {s : State} {ch : Choice} (h : s.choice = some ch) :
    s.expressChoice = some ch ∨
      s.expressChoice = none ∧ ∃ b, s.bandChoice b = some ch ∧ ∀ b', s.bandChoice b' ≠ none → b.code ≤ b'.code := by
  unfold State.choice at h
  cases hexpress : s.expressChoice with
  | some c =>
    rw [hexpress] at h
    exact .inl h
  | none =>
    rw [hexpress] at h
    exact .inr ⟨rfl, findSome_bands h⟩

theorem State.classEligible_of_choice {s : State} {ch : Choice} (h : s.choice = some ch) : s.classEligible ch.cls := by
  by_contra hnot
  have hnone := (s.nextItem_none ch.cls).2 hnot
  rw [State.choice_nextItem h] at hnone
  cases hnone

theorem State.choice_none_iff (s : State) : s.choice = none ↔ ∀ c, ¬ s.classEligible c := by
  constructor
  · intro h c
    unfold State.choice at h
    cases hexpress : s.expressChoice with
    | some ch => rw [hexpress] at h; cases h
    | none =>
      rw [hexpress] at h
      by_cases hc : s.arbiter.express = some c
      · exact State.expressChoice_none hexpress hc
      · have hband : s.bandChoice (s.arbiter.bands.get c) = none :=
          List.findSome?_eq_none_iff.1 h _ (by cases s.arbiter.bands.get c <;> simp)
        exact s.bandChoice_none _ c hband ((s.arbiter.member_iff _ c).2 ⟨rfl, hc⟩)
  · intro h
    cases hch : s.choice with
    | none => rfl
    | some ch => exact absurd (State.classEligible_of_choice hch) (h ch.cls)

/-- What a voice class serves is the eligible record nearest behind its rotation point (R113). -/
theorem State.nextVoice_nearest {s : State} {c : ServiceClass} {item : Item}
    (h : (s.nextVoice c).map Item.voice = some item) :
    let behind (v : VoiceId) : Nat := cyclicDistance 96 ((s.arbiter.voicePoints.get c).map (·.val)) v.val
    ∃ v, item = .voice v ∧ s.owes c v ∧ ∀ w, s.owes c w → behind v ≤ behind w := by
  obtain ⟨v, hv, rfl⟩ := Option.map_eq_some_iff.1 h
  exact ⟨v, rfl, s.nextVoice_some c v hv⟩

theorem engineIds_sorted : engineIds.Pairwise fun a b => a.val < b.val := by decide

/-- CONTROL serves the broadcast, and else the lowest engine with a frame pending (R114). -/
theorem State.nextControl_some {s : State} {item : Item} (h : s.nextControl = some item) :
    (s.broadcastHush = true → item = .broadcast) ∧
      (s.broadcastHush = false → ∃ e f, item = .engine e f ∧ (s.engine e).pendingControl = some f ∧
        ∀ x, x < e → (s.engine x).pendingControl = none) := by
  unfold State.nextControl at h
  split at h
  · next hhush =>
    cases h
    exact ⟨fun _ => rfl, fun hno => by simp [hno] at hhush⟩
  · next hhush =>
    refine ⟨fun hyes => absurd hyes hhush, fun _ => ?_⟩
    obtain ⟨e, -, he, hleast⟩ := findSome_least (fun e : EngineId => e.val) _ engineIds_sorted _ _ h
    obtain ⟨f, hf, rfl⟩ := Option.map_eq_some_iff.1 he
    refine ⟨e, f, rfl, hf, fun x hx => ?_⟩
    by_contra hpending
    have hle := hleast x (List.mem_finRange x) fun hnone => hpending (Option.map_eq_none_iff.1 hnone)
    exact absurd (Fin.lt_def.1 hx) (Nat.not_lt.2 hle)

/-- Settles O40. -/
theorem selectionFollowsPriority : Obligations.SelectionFollowsPriority := by
  refine fun s => ⟨s.choice_none_iff, fun ch hchoice => ⟨State.classEligible_of_choice hchoice, fun c hc helig => ?_,
    fun hband => ?_, fun b hband => ?_, ?_⟩⟩
  · obtain hexpress | ⟨hnone, -⟩ := State.choice_cases hchoice
    · obtain ⟨hcls, -, hband⟩ := State.expressChoice_some hexpress
      exact ⟨Option.some.inj (hcls.symm.trans hc), hband⟩
    · exact absurd helig (State.expressChoice_none hnone hc)
  · obtain hexpress | ⟨-, b, hb, -⟩ := State.choice_cases hchoice
    · exact (State.expressChoice_some hexpress).1
    · obtain ⟨-, hsome, -⟩ := s.bandChoice_some b ch hb
      rw [hband] at hsome
      cases hsome
  · obtain hexpress | ⟨-, b', hb', hfirst⟩ := State.choice_cases hchoice
    · obtain ⟨-, -, hnone⟩ := State.expressChoice_some hexpress
      rw [hband] at hnone
      cases hnone
    · obtain ⟨-, hsome, hmember, hnearest⟩ := s.bandChoice_some b' ch hb'
      rw [hband] at hsome
      cases hsome
      obtain ⟨hband, hexpress⟩ := (s.arbiter.member_iff b ch.cls).1 hmember
      refine ⟨hband, hexpress, fun c hc helig => ⟨hfirst _ fun hnone => ?_, fun hsame => ?_⟩⟩
      · exact s.bandChoice_none _ c hnone ((s.arbiter.member_iff _ c).2 ⟨rfl, hc⟩) helig
      · exact hnearest c ((s.arbiter.member_iff b c).2 ⟨hsame, hc⟩) helig
  · have hitem := State.choice_nextItem hchoice
    obtain ⟨cls, item, band⟩ := ch
    cases cls with
    | start | ending | pitch | level | timbre => exact State.nextVoice_nearest hitem
    | control => exact State.nextControl_some hitem
    | reply =>
      change (if s.mgmt.replyReady then some Item.reply else none) = some item at hitem
      split at hitem
      · exact (Option.some.inj hitem).symm
      · cases hitem
    | notice =>
      change (if s.mgmt.notices.isEmpty then none else some Item.notice) = some item at hitem
      split at hitem
      · cases hitem
      · exact (Option.some.inj hitem).symm

/-! ### The broadcast HUSH and the engines' control frames (R110, R114, R115, R176) -/

theorem State.selection_broadcast {s : State} (hidle : s.arbiter.transmitter = none)
    (hexpress : s.arbiter.express = some .control) (hhush : s.broadcastHush = true) :
    s.selection = s.take ⟨.control, .broadcast, none⟩ := by
  have hitem : s.nextItem .control = some .broadcast := if_pos hhush
  have hchoice : s.choice = some ⟨.control, .broadcast, none⟩ := by
    simp only [State.choice, State.expressChoice, hexpress, Option.bind_some, hitem, Option.map_some]
  exact s.selection_eq _ hidle hchoice

theorem Quiesce.quiesceSent_eq (q : Quiesce) (e : EngineId) : q.quiesceSent e =
    if q.phase = .quiescing ∧ EngineSet.has q.waited e = true then { q with sent := EngineSet.insert q.sent e }
    else q := rfl

/-- Within the laws the QUIESCE of an engine taken does not end the quiesce (R176). -/
theorem State.selection_control {s : State} {e : EngineId} {f : Control} {band : Option Band} (hs : s.restartWf = true)
    (hidle : s.arbiter.transmitter = none) (hchoice : s.choice = some ⟨.control, .engine e f, band⟩) :
    s.selection = s.take ⟨.control, .engine e f, band⟩ := by
  rw [s.selection_eq _ hidle hchoice]
  cases f with
  | hush => rfl
  | quiesce =>
    have hcomplete : (s.take ⟨.control, .engine e .quiesce, band⟩).quiesce.complete = false :=
      (s.quiesce.complete_quiesceSent e).trans (s.restartWf_iff.1 hs).2
    simp only [State.afterQuiesceEvent, hcomplete]
    rfl

/-- Settles O38. -/
theorem broadcastHushGoesFirst : Obligations.BroadcastHushGoesFirst := by
  refine ⟨fun s hpower hidle hexpress hhush => ?_, fun s e f band hpower hidle hs hchoice => ?_⟩
  · have hframe : broadcastFrame = [0x8F, 0x71] := by decide
    rw [exec_selection s hpower, State.selection_broadcast hidle hexpress hhush, State.take]
    simp only [State.takeItem, hframe]
    rfl
  · refine ⟨_, Arbiter.serves_sending _ _ _ nofun, ?_⟩
    rw [exec_selection s hpower, State.selection_control hs hidle hchoice]
    cases f with
    | quiesce =>
      simp only [true_and, ← Quiesce.quiesceSent_eq]
      rfl
    | hush =>
      simp only [reduceCtorEq, false_and, if_false]
      rfl

/-! ### The frames of the voices (R81, R91, R115) -/

theorem State.voiceClass_of_choice {s : State} {cls : ServiceClass} {v : VoiceId} {band : Option Band}
    (hchoice : s.choice = some ⟨cls, .voice v, band⟩) : cls ≠ .control ∧ cls ≠ .reply ∧ cls ≠ .notice := by
  have hitem : s.nextItem cls = some (.voice v) := State.choice_nextItem hchoice
  refine ⟨?_, ?_, ?_⟩ <;> rintro rfl
  · obtain ⟨hyes, hno⟩ := State.nextControl_some hitem
    cases hhush : s.broadcastHush with
    | true => cases hyes hhush
    | false =>
      obtain ⟨e, f, hengine, -⟩ := hno hhush
      cases hengine
  · change (if s.mgmt.replyReady then some Item.reply else none) = some (.voice v) at hitem
    split at hitem <;> cases hitem
  · change (if s.mgmt.notices.isEmpty then none else some Item.notice) = some (.voice v) at hitem
    split at hitem <;> cases hitem

/-- A selection that chooses a voice sends the frame its class gives, changes the record so and serves the choice. -/
theorem State.selection_sends {s : State} {cls : ServiceClass} {v : VoiceId} {band : Option Band} {bytes : List Byte}
    {after : Voice} (hpower : s.power = .running) (hidle : s.arbiter.transmitter = none)
    (hchoice : s.choice = some ⟨cls, .voice v, band⟩) (htake : s.takeVoice cls v = (bytes, s.setVoice v after)) :
    ∃ a, s.arbiter.serves a ⟨cls, .voice v, band⟩ bytes ∧
      exec .selection s = .next { s.setVoice v after with arbiter := a } := by
  refine ⟨_, Arbiter.serves_sending _ _ _ fun _ _ => State.voiceClass_of_choice hchoice, ?_⟩
  rw [exec_selection s hpower, s.selection_eq _ hidle hchoice]
  simp only [State.take, State.takeItem, htake]
  rfl

/-- Settles O39. -/
theorem selectionStrikesVoice : Obligations.SelectionStrikesVoice := by
  intro s cls v band hpower hidle hchoice
  refine ⟨fun p q hcls hpending => ?_, fun p q hcls hpending => ?_, fun hcls => ?_, fun hcls => ?_, fun hcls => ?_,
    fun hcls => ?_⟩ <;> subst hcls <;> refine State.selection_sends hpower hidle hchoice ?_
  · simp only [State.takeVoice, hpending]
    rfl
  · simp only [State.takeVoice, hpending]
    rfl
  all_goals rfl

end Sys2Proof.Machine
end

section
/-! PROOFS. The console's commands that are answered at once: ENGINE SET (R100), ARBITER SET (R118) and the reads (R19, R101, R102,
R119, R131, R132, R133, R135), with the refusals of their lengths and values (R168). -/

namespace Sys2Proof.Machine

/-! ### Answers of a ready console (R166 to R169) -/

theorem next_refused {s : State} {tag code : Byte} {params : List Byte} {cause : Cause} {data : List Byte}
    (h : s.consoleReady) (hn : params.length ≤ 40)
    (hc : (s.held tag code).carryOut ⟨tag, code, params⟩ = .refused cause data) :
    (.next (s.consoleCommand code tag params) : Result) = .next (s.answered tag code (some cause) data) :=
  congrArg Host.Outcome.next (s.consoleCommand_refused code tag params cause data h hn hc)

/-- A command that only reads leaves its reply and nothing else. -/
theorem next_done {s : State} {tag code : Byte} {params data : List Byte} (h : s.consoleReady) (hn : params.length ≤ 40)
    (hc : (s.held tag code).carryOut ⟨tag, code, params⟩ = .done (s.held tag code) data) :
    (.next (s.consoleCommand code tag params) : Result) = .next (s.answered tag code none data) :=
  congrArg Host.Outcome.next (s.consoleCommand_done (s.held tag code) code tag params data h hn hc rfl)

/-- A command that takes time and is no RESET is in progress. -/
theorem next_started {s t : State} {tag code : Byte} {params : List Byte} {work : Work} (h : s.consoleReady)
    (hn : params.length ≤ 40) (hc : (s.held tag code).carryOut ⟨tag, code, params⟩ = .started t work)
    (hw : work ≠ .reset) :
    (.next (s.consoleCommand code tag params) : Result) = .next (t.setInProgress ⟨tag, code, params⟩ work) :=
  congrArg Host.Outcome.next (s.consoleCommand_started t code tag params work h hn hc hw)

/-! ### ENGINE SET (R100) -/

theorem State.engineSet_badLength (s : State) {params : List Byte} (h : params.length ≠ 2) :
    s.engineSet params = badLength :=
  match params, h with
  | [], _ => rfl
  | [_], _ => rfl
  | [_, _], h => absurd rfl h
  | _ :: _ :: _ :: _, _ => rfl

theorem State.engineSet_badValue (s : State) {x limit : Byte} (h : 4 ≤ x.toNat ∨ limit = 0) :
    s.engineSet [x, limit] = badValue := by
  obtain h | rfl := h
  · simp only [State.engineSet, indexOf_outside x h]
  · simp only [State.engineSet, if_true]
    split <;> rfl

theorem State.engineSet_done (s : State) (e : EngineId) {limit : Byte} (h : limit ≠ 0) :
    s.engineSet [byte e.val, limit] =
      .done (s.setEngine e { s.engine e with tailLimit := limit.toNat }) [byte e.val, limit] := by
  simp only [State.engineSet, indexOf_byte e (by decide), h, if_false, State.updEngine_eq]

/-- Settles O49. -/
theorem engineSet : Obligations.EngineSet := by
  refine fun s tag params h hn => ⟨fun hlength => ?_, fun x limit hparams hrange => ?_, fun e limit hparams hlimit => ?_⟩
  · exact next_refused h hn (State.engineSet_badLength _ hlength)
  · subst hparams
    exact next_refused h hn (State.engineSet_badValue _ hrange)
  · subst hparams
    exact congrArg Host.Outcome.next
      (s.consoleCommand_done _ 0x30 tag _ _ h hn ((s.held tag 0x30).engineSet_done e hlimit) rfl)

/-! ### ARBITER SET (R118) -/

theorem State.arbiterSet_badLength (s : State) {params : List Byte} (h : params.length ≠ 9) :
    s.arbiterSet params = badLength := by
  cases params with
  | nil => rfl
  | cons x bands => exact if_neg fun hlength => h (congrArg Nat.succ hlength)

theorem expressOf_outside {x : Byte} (h : 8 < x.toNat) : expressOf x = none := by
  have hzero : x ≠ 0 := by rintro rfl; exact absurd h (by decide)
  have hclass : serviceClassOf x.toNat = none := by
    refine List.find?_eq_none.2 fun c _ => ?_
    have hnumber : c.number ≤ 8 := by cases c <;> decide
    simp only [decide_eq_true_eq]
    omega
  rw [expressOf, if_neg hzero, hclass]
  rfl

theorem bandOf_outside {b : Byte} (h : b.toNat < 1 ∨ 3 < b.toNat) : bandOf b = none := by
  have h1 : b ≠ 1 := by rintro rfl; exact absurd h (by decide)
  have h2 : b ≠ 2 := by rintro rfl; exact absurd h (by decide)
  have h3 : b ≠ 3 := by rintro rfl; exact absurd h (by decide)
  rw [bandOf, if_neg h1, if_neg h2, if_neg h3]

/-- Bytes that name a band map each name a band. -/
theorem bandOf_of_bandMapOf {bands : List Byte} {m : BandMap} (h : bandMapOf bands = some m) :
    ∀ b ∈ bands, bandOf b ≠ none := by
  unfold bandMapOf at h
  split at h
  · split at h
    · simp [*]
    · cases h
  · cases h

theorem expressOf_classByte (express : Option ServiceClass) : expressOf (classByte express) = some express := by
  cases express with
  | none => rfl
  | some c => cases c <;> rfl

theorem bandOf_code (b : Band) : bandOf b.code = some b := by
  cases b <;> rfl

theorem bandMapOf_codes (m : BandMap) : bandMapOf (serviceClasses.map fun c => (m.get c).code) = some m := by
  simp only [serviceClasses, List.map_cons, List.map_nil, bandMapOf, bandOf_code]
  rfl

theorem State.arbiterSet_badValue (s : State) {x : Byte} {bands : List Byte} (hlength : bands.length = 8)
    (h : 8 < x.toNat ∨ ∃ b ∈ bands, b.toNat < 1 ∨ 3 < b.toNat) : s.arbiterSet (x :: bands) = badValue := by
  simp only [State.arbiterSet, hlength, if_true]
  split
  · next express m hexpress hbands =>
    obtain hx | ⟨b, hb, hrange⟩ := h
    · rw [expressOf_outside hx] at hexpress
      cases hexpress
    · exact absurd (bandOf_outside hrange) (bandOf_of_bandMapOf hbands b hb)
  · rfl

theorem State.arbiterSet_done (s : State) (express : Option ServiceClass) (m : BandMap) :
    s.arbiterSet (classByte express :: serviceClasses.map fun c => (m.get c).code) =
      .done (s.setArbiter { s.arbiter with express := express, bands := m })
        (classByte express :: serviceClasses.map fun c => (m.get c).code) := by
  have hlength : (serviceClasses.map fun c => (m.get c).code).length = 8 := rfl
  simp only [State.arbiterSet, hlength, if_true, expressOf_classByte, bandMapOf_codes]
  rfl

/-- Settles O50. -/
theorem arbiterSet : Obligations.ArbiterSet := by
  refine fun s tag params h hn => ⟨fun hlength => ?_, fun x bands hparams hlength hrange => ?_, fun express m hparams => ?_⟩
  · exact next_refused h hn (State.arbiterSet_badLength _ hlength)
  · subst hparams
    exact next_refused h hn (State.arbiterSet_badValue _ hlength hrange)
  · subst hparams
    exact congrArg Host.Outcome.next
      (s.consoleCommand_done _ 0x40 tag _ _ h hn ((s.held tag 0x40).arbiterSet_done express m) rfl)

/-! ### The state of a block as a command judges it (R163) -/

theorem Block.notIn_iff (b : Block) (p : BlockState → Bool) : b.notIn p = true ↔ b.op ≠ none ∨ p b.state = false := by
  simp [Block.notIn, Option.isSome_iff_ne_none]

theorem Block.stateByte_eq (b : Block) : b.stateByte = if b.op = none then b.state.code else 4 := by
  unfold Block.stateByte
  cases b.op <;> rfl

theorem BlockState.ne_incomplete_false_iff (st : BlockState) : decide (st ≠ .incomplete) = false ↔ st = .incomplete := by
  simp

theorem BlockState.openOrValid_false_iff (st : BlockState) :
    (st.isOpen || st.isValid) = false ↔ st = .blank ∨ st = .incomplete := by
  cases st <;> decide

/-! ### The reads (R168) -/

namespace State

variable (s : State)

theorem reads_badLength {params : List Byte} (h : params.length ≠ 1) :
    s.performerRead params = badLength ∧ s.engineRead params = badLength ∧ s.voiceRead params = badLength ∧
      s.tableBlankCheck params = badLength ∧ s.blockRead params = badLength :=
  match params, h with
  | [], _ => ⟨rfl, rfl, rfl, rfl, rfl⟩
  | [_], h => absurd rfl h
  | _ :: _ :: _, _ => ⟨rfl, rfl, rfl, rfl, rfl⟩

theorem tableReads_badLength {params : List Byte} (h : params.length ≠ 3) :
    s.tableVerify params = badLength ∧ s.tableRead params = badLength :=
  match params, h with
  | [], _ => ⟨rfl, rfl⟩
  | [_], _ => ⟨rfl, rfl⟩
  | [_, _], _ => ⟨rfl, rfl⟩
  | [_, _, _], h => absurd rfl h
  | _ :: _ :: _ :: _ :: _, _ => ⟨rfl, rfl⟩

theorem arbiterRead_badLength {params : List Byte} (h : params ≠ []) : s.arbiterRead params = badLength :=
  match params, h with
  | [], h => absurd rfl h
  | _ :: _, _ => rfl

theorem performerRead_badValue {x : Byte} (h : 8 ≤ x.toNat) : s.performerRead [x] = badValue := by
  simp only [performerRead, indexOf_outside x h]

theorem engineRead_badValue {x : Byte} (h : 4 ≤ x.toNat) : s.engineRead [x] = badValue := by
  simp only [engineRead, indexOf_outside x h]

theorem voiceRead_badValue {x : Byte} (h : 96 ≤ x.toNat) : s.voiceRead [x] = badValue := by
  simp only [voiceRead, indexOf_outside x h]

theorem tableReads_badValue {x : Byte} (y z : Byte) (h : 24 ≤ x.toNat) :
    s.tableBlankCheck [x] = badValue ∧ s.blockRead [x] = badValue ∧ s.tableVerify [x, y, z] = badValue ∧
      s.tableRead [x, y, z] = badValue := by
  simp only [tableBlankCheck, blockRead, tableVerify, tableRead, indexOf_outside x h, and_self]

theorem performerRead_slot (i : Slot) : s.performerRead [byte i.val] = .done s ((s.ctx i).report (byte i.val)) := by
  simp only [performerRead, indexOf_byte i (by decide)]

theorem engineRead_engine (e : EngineId) : s.engineRead [byte e.val] = .done s (s.engineReport e) := by
  simp only [engineRead, indexOf_byte e (by decide)]

theorem voiceRead_voice (v : VoiceId) : s.voiceRead [byte v.val] = .done s ((s.voice v).report (byte v.val)) := by
  simp only [voiceRead, indexOf_byte v (by decide)]

theorem blockRead_block (b : BlockId) : s.blockRead [byte b.val] =
    .done s ([byte b.val, (s.block b).state.code, optKindByte (s.block b).kind, yesNo (s.block b).locked] ++
      be16 (s.block b).eraseCount ++ [yesNo (s.bound b)]) := by
  simp only [blockRead, indexOf_byte b (by decide)]

theorem tableBlankCheck_block (b : BlockId) : s.tableBlankCheck [byte b.val] =
    if (s.block b).op ≠ none ∨ (s.block b).state = .incomplete then .refused .blockState [(s.block b).stateByte]
    else .done s [byte b.val, optByte (firstPosition 0 127 (s.block b).written)] := by
  simp only [tableBlankCheck, indexOf_byte b (by decide), Block.notIn_iff, BlockState.ne_incomplete_false_iff]

theorem tableVerify_block (b : BlockId) (hi lo : Byte) : s.tableVerify [byte b.val, hi, lo] =
    if (s.block b).op ≠ none ∨ (s.block b).state = .blank ∨ (s.block b).state = .incomplete then
      .refused .blockState [(s.block b).stateByte]
    else .done s ([byte b.val, if (s.block b).computedChecksum = 256 * hi.toNat + lo.toNat then 0 else 1] ++
      be16 (s.block b).computedChecksum) := by
  have hdiffers (m n : Nat) : yesNo (m != n) = if m = n then 0 else 1 := by
    by_cases h : m = n <;> simp [yesNo, h]
  simp only [tableVerify, indexOf_byte b (by decide), Block.notIn_iff, BlockState.openOrValid_false_iff, hdiffers]

/-- TABLE READ judges its count before the state of the block and the run after it (R133, R168). -/
theorem tableRead_block (b : BlockId) (first count : Byte) : s.tableRead [byte b.val, first, count] =
    if count.toNat < 1 ∨ 8 < count.toNat then badValue
    else if (s.block b).op ≠ none ∨ (s.block b).state = .incomplete then .refused .blockState [(s.block b).stateByte]
    else if 127 < first.toNat ∨ 128 < first.toNat + count.toNat ∨
        40 < (s.block b).readSize first.toNat count.toNat then badValue
    else .done s ([byte b.val, first, count] ++
      (List.range' first.toNat count.toNat).flatMap (s.block b).readBytes) := by
  simp only [tableRead, indexOf_byte b (by decide), Block.notIn_iff, BlockState.ne_incomplete_false_iff]

/-- The reply that a command holds for itself is no reply that the arbiter could send (R106, R167). -/
theorem held_replyReady (tag code : Byte) : (s.held tag code).mgmt.replyReady = s.mgmt.replyReady := by
  unfold held Management.replyReady
  cases s.mgmt.replies <;> rfl

theorem held_arbiterReport (tag code : Byte) : (s.held tag code).arbiterReport = s.arbiterReport := by
  have hcount (c : ServiceClass) : (s.held tag code).eligibleCount c = s.eligibleCount c := by
    cases c with
    | reply => simp only [eligibleCount, held_replyReady]
    | start | ending | pitch | level | timbre | control | notice => rfl
  simp only [arbiterReport, hcount]
  rfl

end State

/-- Settles O51. -/
theorem readsChangeNothing : Obligations.ReadsChangeNothing := by
  refine fun s tag h => ⟨fun i => ?_, fun e => ?_, fun v => ?_, ?_, fun b => ?_, fun params hn => ⟨fun hlength => ?_,
    fun hsome => ?_, fun hlength => ?_⟩, fun x y z => ⟨fun hx => ?_, fun hx => ?_, fun hx => ?_, fun hx => ?_⟩⟩
  · exact next_done h (by simp) (State.performerRead_slot _ i)
  · exact next_done h (by simp) (State.engineRead_engine _ e)
  · exact next_done h (by simp) (State.voiceRead_voice _ v)
  · refine next_done h (by simp) ?_
    rw [← s.held_arbiterReport tag 0x41]
    rfl
  · intro r blocked shown
    have hshown : r.stateByte = shown := r.stateByte_eq
    refine ⟨next_done h (by simp) (State.blockRead_block _ b), fun hfree => ?_, fun hblocked => ?_, fun hi lo =>
      ⟨fun hfree => ?_, fun hblocked => ?_⟩, ?_⟩
    · exact next_done h (by simp) ((State.tableBlankCheck_block _ b).trans (if_neg hfree))
    · rw [← hshown]
      exact next_refused h (by simp) ((State.tableBlankCheck_block _ b).trans (if_pos hblocked))
    · exact next_done h (by simp) ((State.tableVerify_block _ b hi lo).trans (if_neg hfree))
    · rw [← hshown]
      exact next_refused h (by simp) ((State.tableVerify_block _ b hi lo).trans (if_pos hblocked))
    · intro first count counted fits
      have hread := (s.held tag 0x55).tableRead_block b first count
      refine ⟨fun hcount => ?_, fun hcount hblocked => ?_, fun hcount hfree hfits => ?_, fun hcount hfree hfits => ?_⟩
      · exact next_refused h (by simp) (hread.trans (if_pos (by omega)))
      · rw [← hshown]
        exact next_refused h (by simp) (hread.trans ((if_neg (by omega)).trans (if_pos hblocked)))
      · have hrun : 127 < first.toNat ∨ 128 < first.toNat + count.toNat ∨ 40 < r.readSize first.toNat count.toNat := by
          omega
        exact next_refused h (by simp)
          (hread.trans ((if_neg (by omega)).trans ((if_neg hfree).trans (if_pos hrun))))
      · have hrun : ¬ (127 < first.toNat ∨ 128 < first.toNat + count.toNat ∨
            40 < r.readSize first.toNat count.toNat) := by omega
        exact next_done h (by simp)
          (hread.trans ((if_neg (by omega)).trans ((if_neg hfree).trans (if_neg hrun))))
  · obtain ⟨hperformer, -⟩ := (s.held tag 0x13).reads_badLength hlength
    obtain ⟨-, hengine, -⟩ := (s.held tag 0x31).reads_badLength hlength
    obtain ⟨-, -, hvoice, -⟩ := (s.held tag 0x32).reads_badLength hlength
    obtain ⟨-, -, -, hcheck, -⟩ := (s.held tag 0x54).reads_badLength hlength
    obtain ⟨-, -, -, -, hblock⟩ := (s.held tag 0x57).reads_badLength hlength
    exact ⟨next_refused h hn hperformer, next_refused h hn hengine, next_refused h hn hvoice, next_refused h hn hcheck,
      next_refused h hn hblock⟩
  · exact next_refused h hn (State.arbiterRead_badLength _ hsome)
  · obtain ⟨hverify, -⟩ := (s.held tag 0x53).tableReads_badLength hlength
    obtain ⟨-, hread⟩ := (s.held tag 0x55).tableReads_badLength hlength
    exact ⟨next_refused h hn hverify, next_refused h hn hread⟩
  · exact next_refused h (by simp) (State.performerRead_badValue _ hx)
  · exact next_refused h (by simp) (State.engineRead_badValue _ hx)
  · exact next_refused h (by simp) (State.voiceRead_badValue _ hx)
  · obtain ⟨hcheck, -⟩ := (s.held tag 0x54).tableReads_badValue y z hx
    obtain ⟨-, hblock, -⟩ := (s.held tag 0x57).tableReads_badValue y z hx
    obtain ⟨-, -, hverify, -⟩ := (s.held tag 0x53).tableReads_badValue y z hx
    obtain ⟨-, -, -, hread⟩ := (s.held tag 0x55).tableReads_badValue y z hx
    exact ⟨next_refused h (by simp) hcheck, next_refused h (by simp) hblock, next_refused h (by simp) hverify,
      next_refused h (by simp) hread⟩

end Sys2Proof.Machine
end

section
/-! PROOFS. Table Memory: the commands that begin an operation and their tests in order (R127 to R130, R134, R168), STORE CLEAR (R136,
R139), and the completions (R127, R167). -/

namespace Sys2Proof.Machine

/-! ### Lengths and blocks out of range (R168) -/

namespace State

variable (s : State)

theorem storeCommands_badLength {params : List Byte} (h : params.length ≠ 1) :
    s.tableErase params = badLength ∧ s.tableLock params = badLength :=
  match params, h with
  | [], _ => ⟨rfl, rfl⟩
  | [_], h => absurd rfl h
  | _ :: _ :: _, _ => ⟨rfl, rfl⟩

theorem tableWrite_badLength {params : List Byte} (h : params.length < 2) : s.tableWrite params = badLength :=
  match params, h with
  | [], _ => rfl
  | [_], _ => rfl
  | _ :: _ :: _, h => absurd h (by simp)

theorem tableCommit_badLength {params : List Byte} (h : params.length ≠ 3) : s.tableCommit params = badLength :=
  match params, h with
  | [], _ => rfl
  | [_], _ => rfl
  | [_, _], _ => rfl
  | [_, _, _], h => absurd rfl h
  | _ :: _ :: _ :: _ :: _, _ => rfl

theorem storeCommands_badValue {x : Byte} (y z : Byte) (rest : List Byte) (h : 24 ≤ x.toNat) :
    s.tableErase [x] = badValue ∧ s.tableLock [x] = badValue ∧ s.tableWrite (x :: y :: rest) = badValue ∧
      s.tableCommit [x, y, z] = badValue := by
  simp only [tableErase, tableLock, tableWrite, tableCommit, indexOf_outside x h, and_self]

end State

/-! ### Operations that begin (R127) -/

/-- The operation begun and the command in progress are what the statements call them. -/
theorem State.beginStore_setInProgress (s : State) (tag code : Byte) (params : List Byte) (b : BlockId) (op : StoreOp)
    (work : Work) : ((s.held tag code).beginStore b op).setInProgress ⟨tag, code, params⟩ work =
      (s.storeBegun b op).holding tag code params work := by
  cases op <;> rfl

theorem next_begun {s : State} {tag code : Byte} {params : List Byte} {b : BlockId} {op : StoreOp} {work : Work}
    (h : s.consoleReady) (hn : params.length ≤ 40)
    (hc : (s.held tag code).carryOut ⟨tag, code, params⟩ = .started ((s.held tag code).beginStore b op) work)
    (hw : work ≠ .reset) : (.next (s.consoleCommand code tag params) : Result) =
      .next ((s.storeBegun b op).holding tag code params work) := by
  rw [next_started h hn hc hw, State.beginStore_setInProgress]

theorem State.tableErase_block (s : State) (b : BlockId) : s.tableErase [byte b.val] =
    if (s.block b).op.isSome then .refused .blockState [4]
    else if s.bound b then .refused .bound []
    else if (s.block b).locked then .refused .locked []
    else if 1000 ≤ (s.block b).eraseCount then .refused .worn []
    else .started (s.beginStore b .erase) (.erase b) := by
  simp only [State.tableErase, indexOf_byte b (by decide)]

theorem BlockState.not_isValid_iff (st : BlockState) : (!st.isValid) = true ↔ st ≠ .valid := by
  cases st <;> decide

theorem State.tableLock_block (s : State) (b : BlockId) : s.tableLock [byte b.val] =
    if (s.block b).op.isSome then .refused .blockState [4]
    else if (s.block b).locked then .refused .locked []
    else if (s.block b).state ≠ .valid then .refused .blockState [(s.block b).state.code]
    else .started (s.beginStore b .lock) (.lock b) := by
  simp only [State.tableLock, indexOf_byte b (by decide), BlockState.not_isValid_iff]

theorem exec_tableErase_block {s : State} (tag : Byte) (b : BlockId) (h : s.consoleReady) :
    exec (.tableErase tag [byte b.val]) s =
      if (s.block b).op.isSome then .next (s.answered tag 0x50 (some .blockState) [4])
      else if s.bound b then .next (s.answered tag 0x50 (some .bound) [])
      else if (s.block b).locked then .next (s.answered tag 0x50 (some .locked) [])
      else if 1000 ≤ (s.block b).eraseCount then .next (s.answered tag 0x50 (some .worn) [])
      else .next ((s.storeBegun b .erase).holding tag 0x50 [byte b.val] (.erase b)) := by
  have hjudged := ((s.held tag 0x50).carryOut_tableErase tag _).trans ((s.held tag 0x50).tableErase_block b)
  rw [State.held_block, State.held_bound] at hjudged
  split at hjudged
  next hop => exact (next_refused h (by simp) hjudged).trans (if_pos hop).symm
  next hop =>
    rw [if_neg hop]
    split at hjudged
    next hbound => exact (next_refused h (by simp) hjudged).trans (if_pos hbound).symm
    next hbound =>
      rw [if_neg hbound]
      split at hjudged
      next hlocked => exact (next_refused h (by simp) hjudged).trans (if_pos hlocked).symm
      next hlocked =>
        rw [if_neg hlocked]
        split at hjudged
        next hworn => exact (next_refused h (by simp) hjudged).trans (if_pos hworn).symm
        next hworn => exact (next_begun h (by simp) hjudged nofun).trans (if_neg hworn).symm

theorem exec_tableLock_block {s : State} (tag : Byte) (b : BlockId) (h : s.consoleReady) :
    exec (.tableLock tag [byte b.val]) s =
      if (s.block b).op.isSome then .next (s.answered tag 0x56 (some .blockState) [4])
      else if (s.block b).locked then .next (s.answered tag 0x56 (some .locked) [])
      else if (s.block b).state ≠ .valid then .next (s.answered tag 0x56 (some .blockState) [(s.block b).state.code])
      else .next ((s.storeBegun b .lock).holding tag 0x56 [byte b.val] (.lock b)) := by
  have hjudged := ((s.held tag 0x56).carryOut_tableLock tag _).trans ((s.held tag 0x56).tableLock_block b)
  rw [State.held_block] at hjudged
  split at hjudged
  next hop => exact (next_refused h (by simp) hjudged).trans (if_pos hop).symm
  next hop =>
    rw [if_neg hop]
    split at hjudged
    next hlocked => exact (next_refused h (by simp) hjudged).trans (if_pos hlocked).symm
    next hlocked =>
      rw [if_neg hlocked]
      split at hjudged
      next hstate => exact (next_refused h (by simp) hjudged).trans (if_pos hstate).symm
      next hstate => exact (next_begun h (by simp) hjudged nofun).trans (if_neg hstate).symm

/-! ### TABLE WRITE (R129) -/

/-- What a TABLE WRITE comes to at a ready console by its judgment. -/
def State.writeOutcome (s : State) (tag : Byte) (b : BlockId) (first : Nat) (params : List Byte) : WriteJudgment → Result
  | .refuse cause data => .next (s.answered tag 0x51 (some cause) data)
  | .accept images => .next ((s.storeBegun b .write).holding tag 0x51 params (.write b first images))

theorem exec_tableWrite_block {s : State} (tag : Byte) (b : BlockId) (first : Byte) {bytes : List Byte}
    (h : s.consoleReady) (hn : bytes.length ≤ 38) : exec (.tableWrite tag (byte b.val :: first :: bytes)) s =
      s.writeOutcome tag b first.toNat (byte b.val :: first :: bytes)
        ((s.block b).judgeWrite (s.bound b) first.toNat bytes) := by
  have hlength : (byte b.val :: first :: bytes).length ≤ 40 := Nat.add_le_add_right hn 2
  have hjudged : (s.held tag 0x51).tableWrite (byte b.val :: first :: bytes) =
      match (s.block b).judgeWrite (s.bound b) first.toNat bytes with
      | .refuse cause data => .refused cause data
      | .accept images => .started ((s.held tag 0x51).beginStore b .write) (.write b first.toNat images) := by
    simp only [State.tableWrite, indexOf_byte b (by decide)]
    rfl
  cases hwrite : (s.block b).judgeWrite (s.bound b) first.toNat bytes with
  | refuse cause data =>
    rw [hwrite] at hjudged
    exact next_refused h hlength hjudged
  | accept images =>
    rw [hwrite] at hjudged
    exact next_begun h hlength hjudged nofun

theorem BlockState.not_writable_iff (st : BlockState) : (!st.writable) = true ↔ st = .valid ∨ st = .incomplete := by
  cases st <;> decide

theorem Block.writeKind_eq (b : Block) (bytes : List Byte) :
    b.writeKind bytes = if b.state = .blank then tableKindOf (byteAt bytes 0) else b.kind := by
  unfold Block.writeKind
  cases b.state <;> rfl

/-- The tests of TABLE WRITE in their order, with what each refusal reports (R129). -/
theorem State.writeOutcome_judgeWrite (s : State) (tag : Byte) (b : BlockId) (n : Nat) (params bytes : List Byte) :
    let r := s.block b
    let no (cause : Cause) (data : List Byte) : Result := .next (s.answered tag 0x51 (some cause) data)
    s.writeOutcome tag b n params (r.judgeWrite (s.bound b) n bytes) =
      if r.op.isSome then no .blockState [4]
      else if s.bound b then no .bound []
      else if r.locked then no .locked []
      else if r.state = .valid ∨ r.state = .incomplete then no .blockState [r.state.code]
      else if 127 < n then no .badValue []
      else if bytes = [] then no .badLength []
      else if r.state = .blank ∧ n ≠ 0 then no .noHeader []
      else if n = 0 ∧ tableKindOf (byteAt bytes 0) = none then no .badValue []
      else
        match (if r.state = .blank then tableKindOf (byteAt bytes 0) else r.kind).bind fun k => cutImages k 8 n bytes with
        | none => no .badLength []
        | some images =>
          if 128 < n + images.length then no .badValue []
          else
            match firstPosition n (n + images.length - 1) r.written with
            | some p => no .alreadyWritten [byte p]
            | none => .next ((s.storeBegun b .write).holding tag 0x51 params (.write b n images)) := by
  intro r no
  simp only [Block.judgeWrite, Block.judgeRun, Block.writeKind_eq, apply_ite (s.writeOutcome tag b n params)]
  refine ite_congr rfl (fun _ => rfl) fun _ => ite_congr rfl (fun _ => rfl) fun _ => ite_congr rfl (fun _ => rfl) fun _ => ?_
  refine ite_congr (propext r.state.not_writable_iff) (fun _ => rfl) fun _ => ite_congr rfl (fun _ => rfl) fun _ => ?_
  refine ite_congr (propext List.isEmpty_iff) (fun _ => rfl) fun _ => ite_congr rfl (fun _ => rfl) fun _ => ?_
  refine ite_congr (by rw [Option.isNone_iff_eq_none]) (fun _ => rfl) fun _ => ?_
  cases (if r.state = .blank then tableKindOf (byteAt bytes 0) else r.kind).bind fun k => cutImages k 8 n bytes with
  | none => rfl
  | some images =>
    refine (apply_ite (s.writeOutcome tag b n params) _ _ _).trans (ite_congr rfl (fun _ => rfl) fun _ => ?_)
    cases firstPosition n (n + images.length - 1) r.written <;> rfl

/-! ### TABLE COMMIT (R130) -/

/-- What a TABLE COMMIT of an OPEN block comes to at a ready console by its fault. -/
def State.commitOutcome (s : State) (tag : Byte) (b : BlockId) (params : List Byte) : Option (Cause × List Byte) → Result
  | some (cause, data) => .next (s.answered tag 0x52 (some cause) data)
  | none => .next ((s.storeBegun b .commit).holding tag 0x52 params (.commit b))

theorem BlockState.isOpen_false_iff (st : BlockState) : st.isOpen = false ↔ st ≠ .opened := by
  cases st <;> decide

theorem State.tableCommit_block (s : State) (b : BlockId) (hi lo : Byte) : s.tableCommit [byte b.val, hi, lo] =
    if (s.block b).op ≠ none ∨ (s.block b).state ≠ .opened then .refused .blockState [(s.block b).stateByte]
    else
      match (s.block b).commitFault (256 * hi.toNat + lo.toNat) with
      | some (cause, data) => .refused cause data
      | none => .started (s.beginStore b .commit) (.commit b) := by
  cases hfault : (s.block b).commitFault (256 * hi.toNat + lo.toNat) with
  | none => simp only [State.tableCommit, indexOf_byte b (by decide), Block.notIn_iff, BlockState.isOpen_false_iff, hfault]
  | some fault =>
    simp only [State.tableCommit, indexOf_byte b (by decide), Block.notIn_iff, BlockState.isOpen_false_iff, hfault]

theorem exec_tableCommit_blockState {s : State} (tag : Byte) (b : BlockId) (hi lo : Byte) (h : s.consoleReady)
    (hstate : (s.block b).op ≠ none ∨ (s.block b).state ≠ .opened) : exec (.tableCommit tag [byte b.val, hi, lo]) s =
      .next (s.answered tag 0x52 (some .blockState) [if (s.block b).op = none then (s.block b).state.code else 4]) := by
  rw [← Block.stateByte_eq]
  exact next_refused h (by simp) ((State.tableCommit_block _ b hi lo).trans (if_pos hstate))

theorem exec_tableCommit_open {s : State} (tag : Byte) (b : BlockId) (hi lo : Byte) (h : s.consoleReady)
    (hop : (s.block b).op = none) (hstate : (s.block b).state = .opened) :
    exec (.tableCommit tag [byte b.val, hi, lo]) s =
      s.commitOutcome tag b [byte b.val, hi, lo] ((s.block b).commitFault (256 * hi.toNat + lo.toNat)) := by
  have hjudged := (s.held tag 0x52).tableCommit_block b hi lo
  rw [if_neg (by simp [hop, hstate]), State.held_block] at hjudged
  cases hfault : (s.block b).commitFault (256 * hi.toNat + lo.toNat) with
  | some fault =>
    rw [hfault] at hjudged
    exact next_refused h (by simp) hjudged
  | none =>
    rw [hfault] at hjudged
    exact next_begun h (by simp) hjudged nofun

/-- The tests of TABLE COMMIT in their order, with what each refusal reports (R130). -/
theorem State.commitOutcome_commitFault (s : State) (tag : Byte) (b : BlockId) (params : List Byte) (checksum : Nat)
    {k : TableKind} {h : Image} (hkind : (s.block b).kind = some k) (hheader : (s.block b).header = some h) :
    let r := s.block b
    let no (cause : Cause) (data : List Byte) : Result := .next (s.answered tag 0x52 (some cause) data)
    s.commitOutcome tag b params (r.commitFault checksum) =
      if headerOk k h = false then no .badEntry [0]
      else
        match firstPosition 1 (entryCount h) fun p => !r.written p with
        | some p => no .missingEntry [byte p]
        | none =>
          match firstPosition (entryCount h + 1) 127 r.written with
          | some p => no .badEntry [byte p]
          | none =>
            match firstPosition 1 (entryCount h) fun p => !r.entryOk k h p with
            | some p => no .badEntry [byte p]
            | none =>
              if r.computedChecksum ≠ checksum then no .checksumMismatch (be16 r.computedChecksum)
              else .next ((s.storeBegun b .commit).holding tag 0x52 params (.commit b)) := by
  intro r no
  simp only [Block.commitFault, hkind, hheader, r]
  refine (apply_ite (s.commitOutcome tag b params) _ _ _).trans
    (ite_congr (by rw [Bool.not_eq_true']) (fun _ => rfl) fun _ => ?_)
  cases firstPosition 1 (entryCount h) fun p => !(s.block b).written p with
  | some p => rfl
  | none =>
    cases firstPosition (entryCount h + 1) 127 (s.block b).written with
    | some p => rfl
    | none =>
      cases firstPosition 1 (entryCount h) fun p => !(s.block b).entryOk k h p with
      | some p => rfl
      | none =>
        simp only [ite_not]
        exact apply_ite (s.commitOutcome tag b params) _ _ _

/-- Settles O52. -/
theorem storeCommandsBegin : Obligations.StoreCommandsBegin := by
  refine fun s tag h => ⟨fun b => ⟨exec_tableErase_block tag b h, exec_tableLock_block tag b h, fun first bytes hn => ?_,
    fun hi lo => ⟨exec_tableCommit_blockState tag b hi lo h, fun k header hop hstate hkind hheader => ?_⟩⟩,
    fun params hn => ⟨fun hlength => ?_, fun hlength => ?_, fun hlength => ?_⟩, fun x y z rest hx hrest => ?_⟩
  · exact (exec_tableWrite_block tag b first h hn).trans (s.writeOutcome_judgeWrite tag b _ _ bytes)
  · exact (exec_tableCommit_open tag b hi lo h hop hstate).trans
      (s.commitOutcome_commitFault tag b _ _ hkind hheader)
  · obtain ⟨herase, -⟩ := (s.held tag 0x50).storeCommands_badLength hlength
    obtain ⟨-, hlock⟩ := (s.held tag 0x56).storeCommands_badLength hlength
    exact ⟨next_refused h hn herase, next_refused h hn hlock⟩
  · exact next_refused h hn (State.tableWrite_badLength _ hlength)
  · exact next_refused h hn (State.tableCommit_badLength _ hlength)
  · obtain ⟨herase, -⟩ := (s.held tag 0x50).storeCommands_badValue y z rest hx
    obtain ⟨-, hlock, -⟩ := (s.held tag 0x56).storeCommands_badValue y z rest hx
    obtain ⟨-, -, hwrite, -⟩ := (s.held tag 0x51).storeCommands_badValue y z rest hx
    obtain ⟨-, -, -, hcommit⟩ := (s.held tag 0x52).storeCommands_badValue y z rest hx
    exact ⟨next_refused h (by simp) herase, next_refused h (by simp) hlock, next_refused h (Nat.add_le_add_right hrest 2) hwrite,
      next_refused h (by simp) hcommit⟩

/-! ### STORE CLEAR (R136, R139) -/

theorem State.storeClear_badLength (s : State) {params : List Byte} (h : params ≠ []) : s.storeClear params = badLength :=
  match params, h with
  | [], h => absurd rfl h
  | _ :: _, _ => rfl

theorem blockIds_sorted : blockIds.Pairwise fun a b => a.val < b.val := List.pairwise_lt_finRange 24

theorem State.lowestBound_of_least {s : State} {b : BlockId} (hb : s.bound b = true)
    (hleast : ∀ x, x < b → s.bound x = false) : s.lowestBound = some b := by
  cases hlow : s.lowestBound with
  | none =>
    have hnone := s.lowestBound_isNone.1 (by rw [hlow]; rfl) b
    rw [hb] at hnone
    cases hnone
  | some v =>
    have hv : s.bound v = true := List.find?_some hlow
    have hle : v.val ≤ b.val :=
      find_least (fun x : BlockId => x.val) blockIds blockIds_sorted s.bound v b hlow (List.mem_finRange b) hb
    obtain hlt | heq := Nat.lt_or_eq_of_le hle
    · rw [hleast v hlt] at hv
      cases hv
    · rw [Fin.ext heq]

theorem State.storeClear_bound {s : State} {b : BlockId} (h : s.lowestBound = some b) :
    s.storeClear [] = .refused .bound [byte b.val] := by
  simp only [State.storeClear, h]

theorem State.storeClear_started {s : State} (h : s.lowestBound = none) :
    s.storeClear [] = .started (s.clearReach 0 0 0).1 (s.clearReach 0 0 0).2 := by
  simp only [State.storeClear, h]

/-- The entry held by STORE CLEAR itself changes nothing of what it does at a block. -/
theorem State.clearReach_held (s : State) (tag code : Byte) (params : List Byte) (b : BlockId) (erased : Nat)
    (worn : BlockSet) :
    ((s.held tag code).clearReach b erased worn).1.setInProgress ⟨tag, code, params⟩
        ((s.held tag code).clearReach b erased worn).2 =
      (s.clearReach b erased worn).1.holding tag code params (s.clearReach b erased worn).2 := by
  unfold State.clearReach
  simp only [State.updBlock_eq, State.held_block, State.block_setBlock_same]
  split <;> rfl

/-- Settles O53. -/
theorem storeClearBegins : Obligations.StoreClearBegins := by
  refine fun s tag h => ⟨fun params hn hsome => ?_, fun b hb hleast => ?_, fun hfree =>
    ⟨_, _, s.clearReach_clearAt 0 0 0, ?_⟩⟩
  · exact next_refused h hn (State.storeClear_badLength _ hsome)
  · have hlow : (s.held tag 0x58).lowestBound = some b := State.lowestBound_of_least hb hleast
    exact next_refused h (by simp) (State.storeClear_bound hlow)
  · have hlow : (s.held tag 0x58).lowestBound = none :=
      Option.isNone_iff_eq_none.1 ((s.held tag 0x58).lowestBound_isNone.2 hfree)
    rw [← s.clearReach_held tag 0x58 []]
    exact next_started h (by simp) (State.storeClear_started hlow) (State.clearReach_work_ne _ 0 0 0)

/-! ### Completions (R127, R167) -/

theorem exec_erasureCompletion {s : State} (h : s.power = .running) : exec .erasureCompletion s = .next s.erasureDone :=
  congrArg Host.Outcome.next (s.whenRunning_running _ h)

theorem exec_writeCompletion {s : State} (h : s.power = .running) : exec .writeCompletion s = .next s.writeDone :=
  congrArg Host.Outcome.next (s.whenRunning_running _ h)

theorem exec_commitCompletion {s : State} (h : s.power = .running) : exec .commitCompletion s = .next s.commitDone :=
  congrArg Host.Outcome.next (s.whenRunning_running _ h)

theorem exec_lockCompletion {s : State} (h : s.power = .running) : exec .lockCompletion s = .next s.lockDone :=
  congrArg Host.Outcome.next (s.whenRunning_running _ h)

theorem exec_storeClearBlockCompletion {s : State} (h : s.power = .running) :
    exec .storeClearBlockCompletion s = .next s.clearBlockDone :=
  congrArg Host.Outcome.next (s.whenRunning_running _ h)

/-- The test of the waiting list that ends an event is COMMAND_START's (R167). -/
theorem next_startWaiting {t : State} (h : t.power = .running) :
    (.next t.startWaiting : Result) = exec .commandStart t ∧ (t.mgmt.waiting = [] → (.next t.startWaiting : Result) = .next t) :=
  ⟨(t.exec_commandStart h).symm, fun hw => by rw [State.startWaiting_nil t hw]⟩

/-- A completion ends its operation, answers its command and tests the waiting list. -/
theorem next_complete {s : State} {c : Cmd} {earlier : List ReplyEntry} (h : s.power = .running)
    (hr : s.mgmt.replies = earlier ++ [⟨c.tag, c.code, none⟩]) (he : ∀ e ∈ earlier, e.result ≠ none)
    (b : BlockId) (f : Block → Block) (data : Block → List Byte) :
    let t := State.finished { s with blocks := s.blocks.set b (f (s.block b)), storeTimer := none } earlier c
      (data (f (s.block b)))
    (.next (s.complete b f data) : Result) = exec .commandStart t ∧
      (s.mgmt.waiting = [] → (.next (s.complete b f data) : Result) = .next t) := by
  rw [s.complete_finished c earlier b f data hr he]
  exact next_startWaiting (by exact h)

theorem Block.committed_lastPosition (b : Block) : b.committed.lastPosition = b.lastPosition := rfl

theorem Block.committed_computedChecksum (b : Block) : b.committed.computedChecksum = b.computedChecksum := rfl

/-- Settles O54. -/
theorem storeOperationsComplete : Obligations.StoreOperationsComplete := by
  intro s c earlier b hpower hr he finish ends
  refine ⟨fun hp => ?_, fun first images hp => ?_, fun hp => ?_, fun hp => ?_⟩
  · have hdone : s.erasureDone = s.complete b Block.erased (eraseData b) := by simp only [State.erasureDone, hp]
    have hends := next_complete hpower hr he b Block.erased (eraseData b)
    rwa [← hdone, ← exec_erasureCompletion hpower] at hends
  · have hdone : s.writeDone = s.complete b (·.afterWrite first images) (writeData b first images) := by
      simp only [State.writeDone, hp]
    have hends := next_complete hpower hr he b (·.afterWrite first images) (writeData b first images)
    rw [← hdone, ← exec_writeCompletion hpower] at hends
    refine ⟨((s.block b).afterWrite first images).cells, ((s.block b).afterWrite first images).kind, hends,
      fun hfirst => if_neg hfirst, fun h rest hfirst himages => ?_, fun _ p => lookup_putRun first p images _⟩
    subst himages
    exact if_pos hfirst
  · have hdone : s.commitDone = s.complete b Block.committed (commitData b) := by simp only [State.commitDone, hp]
    have hends := next_complete hpower hr he b Block.committed (commitData b)
    rwa [← hdone, ← exec_commitCompletion hpower] at hends
  · have hdone : s.lockDone = s.complete b Block.lockedNow (lockData b) := by simp only [State.lockDone, hp]
    have hends := next_complete hpower hr he b Block.lockedNow (lockData b)
    rwa [← hdone, ← exec_lockCompletion hpower] at hends

/-- The held entry of the command in progress is built behind the earlier ones (R169). -/
theorem State.buildReply_finished {s : State} {c : Cmd} {earlier : List ReplyEntry}
    (hr : s.mgmt.replies = earlier ++ [⟨c.tag, c.code, none⟩]) (he : ∀ e ∈ earlier, e.result ≠ none) (data : List Byte) :
    s.buildReply none data = s.finished earlier c data := by
  simp only [State.buildReply, State.finished, State.setMgmt, hr, buildHeld_newest _ _ _ _ he]

/-- STORE CLEAR that has dealt with a block reaches the next one, or is answered after the last (R136). -/
theorem State.clearNext_goesOn {s : State} (h : s.power = .running) (c : Cmd) (b : BlockId) (erased : Nat)
    (worn : BlockSet) :
    (∀ next : BlockId, next.val = b.val + 1 → ∃ t work, s.clearAt next erased worn t work ∧
      (.next (s.clearNext c b erased worn) : Result) =
        .next { t with mgmt := { t.mgmt with inProgress := some ⟨c, work⟩ } }) ∧
    ∀ earlier, b.val = 23 → s.mgmt.replies = earlier ++ [⟨c.tag, c.code, none⟩] → (∀ e ∈ earlier, e.result ≠ none) →
      (.next (s.clearNext c b erased worn) : Result) = exec .commandStart (s.finished earlier c (byte erased :: be24 worn)) ∧
        (s.mgmt.waiting = [] →
          (.next (s.clearNext c b erased worn) : Result) = .next (s.finished earlier c (byte erased :: be24 worn))) := by
  refine ⟨fun next hnext => ?_, fun earlier hlast hr he => ?_⟩
  · have hlt : b.val + 1 < 24 := hnext ▸ next.isLt
    have hblock : next = ⟨b.val + 1, hlt⟩ := Fin.ext hnext
    refine ⟨_, _, s.clearReach_clearAt next erased worn, ?_⟩
    rw [s.clearNext_reach c erased worn hlt, hblock]
    rfl
  · rw [s.clearNext_last c erased worn (by omega), State.buildReply_finished hr he]
    exact next_startWaiting (by exact h)

/-- Settles O55. -/
theorem storeClearGoesOn : Obligations.StoreClearGoesOn := by
  intro s c b erased worn hpower goesOn
  refine ⟨fun hp => ?_, fun hp => ⟨BlockSet.insert worn b, BlockSet.getLsbD_insert worn b, ?_⟩⟩
  · have hdone : s.clearBlockDone = ((s.updBlock b Block.erased).storeDone).clearNext c b (erased + 1) worn := by
      simp only [State.clearBlockDone, hp]
    have hgoes := State.clearNext_goesOn (s := (s.updBlock b Block.erased).storeDone) hpower c b (erased + 1) worn
    rwa [← hdone, ← exec_storeClearBlockCompletion hpower] at hgoes
  · have hdone : s.clearBlockDone = s.storeDone.clearNext c b erased (BlockSet.insert worn b) := by
      simp only [State.clearBlockDone, hp]
    have hgoes := State.clearNext_goesOn (s := s.storeDone) hpower c b erased (BlockSet.insert worn b)
    rwa [← hdone, ← exec_storeClearBlockCompletion hpower] at hgoes

end Sys2Proof.Machine
end

section
/-! PROOFS. The Restart Controller: the beginning of a quiesce by RESET (R174, R175), the answers of the engines (R97, R176), and the
end of the quiesce, CLEAN or FORCED (R177, R178). -/

namespace Sys2Proof.Machine

/-! ### Sets of engines (R173, R176) -/

namespace EngineSet

theorem has_zero (e : EngineId) : has 0 e = false := BitVec.getLsbD_zero

theorem has_ofPred (p : EngineId → Bool) (c : EngineId) : has (ofPred p) c = p c := getLsbD_foldl_finRange p c

end EngineSet

theorem State.has_presentEngines (s : State) (e : EngineId) :
    EngineSet.has s.presentEngines e = (s.engine e).present := EngineSet.has_ofPred _ e

theorem Quiesce.has_unacknowledged (q : Quiesce) (e : EngineId) :
    EngineSet.has q.unacknowledged e = (EngineSet.has q.waited e && !EngineSet.has q.acknowledged e) := by
  simp [EngineSet.has, Quiesce.unacknowledged]

theorem Quiesce.complete_iff (q : Quiesce) :
    q.complete = true ↔ q.phase = .quiescing ∧ ∀ e, EngineSet.has q.unacknowledged e = false := by
  have hzero : q.unacknowledged = 0 ↔ ∀ e, EngineSet.has q.unacknowledged e = false :=
    ⟨fun h e => by rw [h, EngineSet.has_zero], fun h => EngineSet.ext_has fun e => by rw [h, EngineSet.has_zero]⟩
  simp only [Quiesce.complete, Bool.and_eq_true, beq_iff_eq, hzero]

theorem Quiesce.not_complete {q : Quiesce} {e : EngineId} (h : EngineSet.has q.unacknowledged e = true) :
    q.complete = false := by
  refine Bool.eq_false_iff.2 fun hc => ?_
  rw [(q.complete_iff.1 hc).2 e] at h
  cases h

/-! ### The end of a quiesce (R177, R178) -/

theorem State.afterQuiesceEvent_going {s : State} (h : s.quiesce.complete = false) : s.afterQuiesceEvent = s :=
  if_neg (Bool.eq_false_iff.1 h)

theorem State.quiesceTest_going {s : State} (h : s.quiesce.complete = false) : s.quiesceTest = s :=
  if_neg (Bool.eq_false_iff.1 h)

theorem State.quiesceTest_clean {s : State} (h : s.quiesce.complete = true) : s.quiesceTest = s.quiesceEnd false 0 :=
  if_pos h

theorem State.afterQuiesceEvent_clean {s : State} (h : s.quiesce.complete = true) :
    s.afterQuiesceEvent = (s.quiesceEnd false 0).startWaiting :=
  (if_pos h).trans (congrArg State.startWaiting (State.quiesceTest_clean h))

/-- The end of a quiesce takes the reset's effects, answers the RESET and tests the waiting list. -/
theorem next_quiesceEnd {s : State} {kind : ResetKind} {c : Cmd} {earlier : List ReplyEntry} (hpower : s.power = .running)
    (hk : s.quiesce.kind = some kind) (hr : s.mgmt.replies = earlier ++ [⟨c.tag, c.code, none⟩])
    (he : ∀ r ∈ earlier, r.result ≠ none) (forced : Bool) (hushed : EngineSet) :
    ∃ t, s.resetBy t kind hushed ∧
      (let answered := t.finished earlier c [if forced then 1 else 0, hushed.setWidth 8]
      (.next (s.quiesceEnd forced hushed).startWaiting : Result) = exec .commandStart answered ∧
        (s.mgmt.waiting = [] → (.next (s.quiesceEnd forced hushed).startWaiting : Result) = .next answered)) := by
  obtain ⟨t, hreset, hend⟩ := s.quiesceEnd_spec kind hushed forced c earlier hk hr he
  have hrun : t.power = .running := by rw [hreset.1]; exact hpower
  have hwaiting : t.mgmt.waiting = s.mgmt.waiting := by rw [hreset.1]
  obtain ⟨hstart, hdone⟩ := next_startWaiting (t := t.finished earlier c [if forced then 1 else 0, hushed.setWidth 8]) hrun
  rw [hend]
  exact ⟨t, hreset, hstart, fun hw => hdone (hwaiting.trans hw)⟩

/-- Settles O58. -/
theorem limitExpiryForces : Obligations.LimitExpiryForces := by
  intro s c earlier kind hpower hphase hkind hlimit _ hr he
  refine ⟨s.quiesce.has_unacknowledged, ?_⟩
  have hruns : s.quiesce.limit.running = true := Option.isSome_iff_ne_none.2 hlimit
  have hexpiry : s.limitExpiry = (s.quiesceEnd true s.quiesce.unacknowledged).startWaiting := by
    simp only [State.limitExpiry, hruns, if_true, State.limitExpired, hphase]
  rw [exec_limitExpiry s hpower, hexpiry]
  exact next_quiesceEnd hpower hkind hr he true s.quiesce.unacknowledged

/-! ### A QUIESCE ACK (R176) -/

theorem exec_quiesceAck {s : State} (e : EngineId) (hs : s.linesQuiet) :
    exec (.quiesceAck (BitVec.ofNat 4 e.val) (engineFrame 5 e []).tail) s = .next ((s.heard .voice).ackEvent e) :=
  congrArg Host.Outcome.next (State.receive_engineFrame hs (by decide) (judgeVoiceLink_quiesceAckFrame e))

/-- An ACK that counts takes its engine out of those still to answer. -/
theorem Quiesce.has_unacknowledged_insert (q : Quiesce) (e x : EngineId) :
    EngineSet.has ({ q with acknowledged := EngineSet.insert q.acknowledged e } : Quiesce).unacknowledged x =
      (EngineSet.has q.unacknowledged x && !decide (x = e)) := by
  simp only [Quiesce.has_unacknowledged, EngineSet.has_insert, Bool.not_or, Bool.and_assoc]

theorem Quiesce.answered_counts {q : Quiesce} {e : EngineId} (h : q.phase = .quiescing ∧ EngineSet.has q.waited e = true ∧
    EngineSet.has q.sent e = true ∧ EngineSet.has q.acknowledged e = false) :
    q.answered e = { q with acknowledged := EngineSet.insert q.acknowledged e } := by
  obtain ⟨hphase, hwaited, hsent, hack⟩ := h
  exact if_pos ⟨hphase, hwaited, hsent, Bool.eq_false_iff.1 hack⟩

theorem Quiesce.answered_ignored {q : Quiesce} {e : EngineId} (h : ¬ (q.phase = .quiescing ∧
    EngineSet.has q.waited e = true ∧ EngineSet.has q.sent e = true ∧ EngineSet.has q.acknowledged e = false)) :
    q.answered e = q :=
  if_neg fun ⟨hphase, hwaited, hsent, hack⟩ => h ⟨hphase, hwaited, hsent, Bool.eq_false_iff.2 hack⟩

/-- Settles O57. -/
theorem quiesceAckCounts : Obligations.QuiesceAckCounts := by
  intro s e hs hlaws ack counts
  have hack : ack = .next ((s.heard .voice).ackEvent e) := exec_quiesceAck e hs
  rw [hack]
  refine ⟨fun hno => ?_, fun hcounts ⟨x, hx, hleft⟩ => ?_, fun hcounts hlast c earlier kind hkind _ hr he => ?_⟩
  · have hanswered : s.quiesce.answered e = s.quiesce := Quiesce.answered_ignored hno
    have hevent : (s.heard .voice).ackEvent e = (s.heard .voice).afterQuiesceEvent :=
      congrArg (fun q => ((s.heard .voice).setQuiesce q).afterQuiesceEvent) hanswered
    rw [hevent, State.afterQuiesceEvent_going (s := s.heard .voice) (s.restartWf_iff.1 hlaws).2]
  · have hanswered := Quiesce.answered_counts hcounts
    have hevent : (s.heard .voice).ackEvent e = ((s.heard .voice).setQuiesce
        { s.quiesce with acknowledged := EngineSet.insert s.quiesce.acknowledged e }).afterQuiesceEvent :=
      congrArg (fun q => ((s.heard .voice).setQuiesce q).afterQuiesceEvent) hanswered
    have hgoing : ({ s.quiesce with acknowledged := EngineSet.insert s.quiesce.acknowledged e } : Quiesce).complete = false :=
      Quiesce.not_complete (e := x) (by rw [Quiesce.has_unacknowledged_insert, hleft, decide_eq_false hx]; rfl)
    rw [hevent, State.afterQuiesceEvent_going hgoing]
    rfl
  · have hanswered := Quiesce.answered_counts hcounts
    have hevent : (s.heard .voice).ackEvent e = ((s.heard .voice).setQuiesce
        { s.quiesce with acknowledged := EngineSet.insert s.quiesce.acknowledged e }).afterQuiesceEvent :=
      congrArg (fun q => ((s.heard .voice).setQuiesce q).afterQuiesceEvent) hanswered
    have hcomplete :
        ({ s.quiesce with acknowledged := EngineSet.insert s.quiesce.acknowledged e } : Quiesce).complete = true := by
      refine (Quiesce.complete_iff _).2 ⟨hcounts.1, fun x => ?_⟩
      rw [Quiesce.has_unacknowledged_insert]
      by_cases hx : x = e
      · rw [decide_eq_true hx, Bool.not_true, Bool.and_false]
      · rw [hlast x hx, Bool.false_and]
    obtain ⟨t, hreset, hends⟩ := next_quiesceEnd (s := (s.heard .voice).setQuiesce
      { s.quiesce with acknowledged := EngineSet.insert s.quiesce.acknowledged e }) hs.1 hkind hr he false 0
    rw [hevent, State.afterQuiesceEvent_clean hcomplete]
    exact ⟨t, State.resetBy_setQuiesce hreset, hends⟩

/-! ### A HELLO (R97, R176) -/

theorem exec_hello {s : State} (e : EngineId) {n : Nat} (hs : s.linesQuiet) (hlow : 1 ≤ n) (hhigh : n ≤ 24) :
    exec (.hello (BitVec.ofNat 4 e.val) (engineFrame 1 e [byte n]).tail) s = .next ((s.heard .voice).helloEvent e n) :=
  congrArg Host.Outcome.next (State.receive_engineFrame hs (by simp) (judgeVoiceLink_helloFrame e hlow hhigh))

theorem Quiesce.rejoined_eq (q : Quiesce) (e : EngineId) : q.rejoined e =
    if q.phase = .idle then q else
      { q with
        waited := EngineSet.erase q.waited e
        sent := EngineSet.erase q.sent e
        acknowledged := EngineSet.erase q.acknowledged e } := by
  unfold Quiesce.rejoined
  cases q.phase <;> rfl

/-- A HELLO takes its engine out of those still to answer. -/
theorem Quiesce.has_unacknowledged_rejoined {q : Quiesce} (h : q.phase = .quiescing) (e x : EngineId) :
    EngineSet.has (q.rejoined e).unacknowledged x = (EngineSet.has q.unacknowledged x && !decide (x = e)) := by
  simp only [Quiesce.rejoined, h, Quiesce.has_unacknowledged, EngineSet.has_erase]
  by_cases hx : x = e <;> simp [hx]

/-- The state after a HELLO, before the quiesce is tested (R97, R176). -/
def State.rejoined (s : State) (e : EngineId) (count : Nat) : State :=
  (s.hello e count).setQuiesce (s.quiesce.rejoined e)

theorem State.helloEvent_eq (s : State) (e : EngineId) (count : Nat) :
    s.helloEvent e count = (s.rejoined e count).afterQuiesceEvent := rfl

theorem State.rejoined_frame (s : State) (e : EngineId) (count : Nat) :
    s.rejoined e count = { s with
      contexts := (s.rejoined e count).contexts
      voices := (s.rejoined e count).voices
      engines := s.engines.set e
        { s.engine e with present := true, voiceCount := some count, held := false, pendingControl := none }
      mgmt := s.mgmt.offer (.engineJoined e)
      quiesce := if s.quiesce.phase = .idle then s.quiesce else
        { s.quiesce with
          waited := EngineSet.erase s.quiesce.waited e
          sent := EngineSet.erase s.quiesce.sent e
          acknowledged := EngineSet.erase s.quiesce.acknowledged e } } := by
  rw [← Quiesce.rejoined_eq]
  rfl

theorem NoteRecord.without_voices (n : NoteRecord) (p : VoiceId → Bool) :
    n.without p = { n with voices := n.voices.map fun o => o.filter fun v => !p v } := by
  have hentry : ∀ o : Option VoiceId,
      (match o with | some v => if p v then none else some v | none => none) = o.filter fun v => !p v := by
    rintro (_ | v)
    · rfl
    · cases hp : p v <;> simp [hp, Option.filter]
  unfold NoteRecord.without
  exact congrArg (fun f => { n with voices := n.voices.map f }) (funext hentry)

theorem State.ctx_rejoined (s : State) (e : EngineId) (count : Nat) (i : Slot) :
    (s.rejoined e count).ctx i = { s.ctx i with note := (s.ctx i).note.map fun r => { r with
      voices := r.voices.map fun o => o.filter fun v => engineOf v ≠ e } } := by
  have hctx : (s.rejoined e count).ctx i = (s.ctx i).lose fun v => engineOf v = e := by
    simp only [State.rejoined, State.hello, State.ctx_setQuiesce, State.ctx_offer, State.updEngine_eq, State.ctx_setEngine,
      State.ctx_mapVoices, State.ctx_mapContexts]
  rw [hctx, Context.lose]
  simp only [NoteRecord.without_voices, ne_eq, decide_not]

theorem State.voice_rejoined (s : State) (e : EngineId) (count : Nat) (v : VoiceId) :
    (s.rejoined e count).voice v =
      if engineOf v = e then (s.voice v).afterHello (voiceNumber v) count else s.voice v := by
  simp only [State.rejoined, State.hello, State.voice_setQuiesce, State.voice_offer, State.updEngine_eq,
    State.voice_setEngine, State.voice_mapVoices, State.voice_mapContexts]

theorem Management.offer_frame (m : Management) (n : Notice) :
    m.offer n = { m with notices := (m.offer n).notices, noticesDropped := (m.offer n).noticesDropped } := by
  unfold Management.offer
  split
  · rfl
  · split <;> rfl

/-- Settles O36. -/
theorem helloResetsEngine : Obligations.HelloResetsEngine := by
  intro s e n hs hlow hhigh hello joined
  have hhello : hello = .next ((s.heard .voice).rejoined e n).afterQuiesceEvent := exec_hello e hs hlow hhigh
  have hjoined : joined ((s.heard .voice).rejoined e n) :=
    ⟨(s.heard .voice).rejoined_frame e n, (s.heard .voice).ctx_rejoined e n, (s.heard .voice).voice_rejoined e n⟩
  refine ⟨fun hgoing => ⟨_, ?_, hjoined⟩, fun c earlier kind hphase hkind hlast _ hr he => ?_⟩
  · rw [hhello]
    refine congrArg Host.Outcome.next (State.afterQuiesceEvent_going ?_)
    change (s.quiesce.rejoined e).complete = false
    cases hphase : s.quiesce.phase with
    | idle =>
      rw [Quiesce.rejoined_eq, if_pos hphase]
      exact Bool.eq_false_iff.2 fun hc => absurd (hphase.symm.trans (s.quiesce.complete_iff.1 hc).1) nofun
    | quiescing =>
      obtain ⟨x, hx, hleft⟩ := hgoing.resolve_left (by rw [hphase]; nofun)
      refine Quiesce.not_complete (e := x) ?_
      rw [Quiesce.has_unacknowledged_rejoined hphase, hleft, decide_eq_false hx]
      rfl
  · have hrejoined : (s.quiesce.rejoined e).kind = some kind ∧ (s.quiesce.rejoined e).phase = .quiescing := by
      simp only [Quiesce.rejoined, hphase]
      exact ⟨hkind, trivial⟩
    have hcomplete : ((s.heard .voice).rejoined e n).quiesce.complete = true := by
      refine (Quiesce.complete_iff _).2 ⟨hrejoined.2, fun x => (Quiesce.has_unacknowledged_rejoined hphase e x).trans ?_⟩
      by_cases hx : x = e
      · rw [decide_eq_true hx, Bool.not_true, Bool.and_false]
      · rw [hlast x hx, Bool.false_and]
    have hmgmt : ((s.heard .voice).rejoined e n).mgmt = s.mgmt.offer (.engineJoined e) := rfl
    have hreplies : ((s.heard .voice).rejoined e n).mgmt.replies = earlier ++ [⟨c.tag, c.code, none⟩] := by
      rw [hmgmt, Management.offer_frame]
      exact hr
    have hwaiting : ((s.heard .voice).rejoined e n).mgmt.waiting = s.mgmt.waiting := by
      rw [hmgmt, Management.offer_frame]
    obtain ⟨t, hreset, hstart, hdone⟩ :=
      next_quiesceEnd (s := (s.heard .voice).rejoined e n) hs.1 hrejoined.1 hreplies he false 0
    rw [hhello, State.afterQuiesceEvent_clean hcomplete]
    exact ⟨_, t, hjoined, hreset, hstart, fun hw => hdone (hwaiting.trans hw)⟩

end Sys2Proof.Machine
end

section
/-! PROOFS. RESET: its refusals and the beginning of its quiesce (R174, R175, R177, R178). -/

namespace Sys2Proof.Machine

/-! ### The contexts at the beginning of a quiesce (R175, step 2) -/

/-- The notices a quiesce offers at a context with an onset or a note are those of the bindings it applies. -/
theorem State.quiesceContext_mgmt (s : State) {i : Slot} (h : (s.ctx i).state.active = true) :
    (s.quiesceContext i).mgmt = (s.applyAll i .atRest).mgmt := by
  rw [State.quiesceContext, if_pos h, State.enterReady]
  refine State.applyAll_mgmt_congr .atRest ?_ ?_
  · rw [State.abandon_eq]
    simp [Context.startPhrase, Context.withTimers]
  · rw [State.abandon_eq]
    rfl

theorem State.quiesceContext_inactive (s : State) {i : Slot} (h : ¬ (s.ctx i).state.active = true) :
    s.quiesceContext i = s := if_neg h

theorem State.quiesceContext_others (s : State) {i x : Slot} (h : i ≠ x) : (s.quiesceContext x).ctx i = s.ctx i := by
  obtain ⟨-, -, hothers, -⟩ := s.quiesceContext_spec x
  exact hothers i h

theorem State.ctx_quiesceContexts (l : List Slot) (s : State) (hl : l.Nodup) (i : Slot) :
    (forEach l (fun i s => s.quiesceContext i) s).ctx i =
      if i ∈ l ∧ (s.ctx i).state.active = true then (s.ctx i).quieted else s.ctx i := by
  induction l generalizing s with
  | nil => exact (if_neg fun h => absurd h.1 List.not_mem_nil).symm
  | cons x xs ih =>
    obtain ⟨hx, hxs⟩ := List.nodup_cons.1 hl
    refine (ih (s.quiesceContext x) hxs).trans ?_
    by_cases hix : i = x
    · subst hix
      obtain ⟨-, -, -, hctx⟩ := s.quiesceContext_spec i
      rw [if_neg fun h => hx h.1, hctx]
      simp only [List.mem_cons_self, true_and]
    · rw [s.quiesceContext_others hix]
      simp only [List.mem_cons, hix, false_or]

/-- Whether a quiesce that comes to some slots ends a voice: it stands in the voice list of one of them. -/
def State.quiesceEnds (s : State) (l : List Slot) (v : VoiceId) : Prop :=
  ∃ i ∈ l, (s.ctx i).state.active = true ∧ v ∈ (s.ctx i).noteVoices

theorem State.quiesceEnds_quiesceContext (s : State) {x : Slot} {xs : List Slot} (hx : x ∉ xs) (v : VoiceId) :
    (s.quiesceContext x).quiesceEnds xs v ↔ s.quiesceEnds xs v :=
  exists_congr fun i => and_congr_right fun hi => by
    have hne : i ≠ x := fun heq => hx (heq ▸ hi)
    rw [s.quiesceContext_others hne]

theorem State.quiesceEnds_cons (s : State) (x : Slot) (xs : List Slot) (v : VoiceId) : s.quiesceEnds (x :: xs) v ↔
    ((s.ctx x).state.active = true ∧ v ∈ (s.ctx x).noteVoices) ∨ s.quiesceEnds xs v := by
  simp only [State.quiesceEnds, List.mem_cons, exists_eq_or_imp]

/-- A voice in several of the voice lists is ended once, whatever the lists repeat. -/
theorem State.voice_quiesceContexts (l : List Slot) (s : State) (hl : l.Nodup) (v : VoiceId) :
    let t := forEach l (fun i s => s.quiesceContext i) s
    (s.quiesceEnds l v → t.voice v = (s.voice v).ended s.timebase) ∧ (¬ s.quiesceEnds l v → t.voice v = s.voice v) := by
  induction l generalizing s with
  | nil => exact ⟨fun ⟨i, hi, _⟩ => absurd hi List.not_mem_nil, fun _ => rfl⟩
  | cons x xs ih =>
    obtain ⟨hx, hxs⟩ := List.nodup_cons.1 hl
    obtain ⟨hsection, hvoice, -, -⟩ := s.quiesceContext_spec x
    obtain ⟨ihends, ihkeeps⟩ := ih (s.quiesceContext x) hxs
    rw [s.quiesceEnds_quiesceContext hx] at ihends ihkeeps
    have htimebase : (s.quiesceContext x).timebase = s.timebase := by rw [hsection]
    rw [htimebase] at ihends
    rw [s.quiesceEnds_cons]
    refine ⟨fun hends => ?_, fun hno => ?_⟩
    · by_cases hlater : s.quiesceEnds xs v
      · refine (ihends hlater).trans ?_
        rw [hvoice]
        split
        · exact Voice.ended_ended _ _
        · rfl
      · exact (ihkeeps hlater).trans ((hvoice v).trans (if_pos (hends.resolve_right hlater)))
    · obtain ⟨hhere, hlater⟩ := not_or.1 hno
      exact (ihkeeps hlater).trans ((hvoice v).trans (if_neg hhere))

/-- The notices offered are those of the AT REST bindings applied at the slots that had an onset or a note. -/
theorem State.quiesceContexts_offers (l : List Slot) (s : State) (hl : l.Nodup) :
    let t := forEach l (fun i s => s.quiesceContext i) s
    let u := forEach (l.filter fun i => (s.ctx i).state.active) (fun i s => s.applyAll i .atRest) s
    t.mgmt.notices = u.mgmt.notices ∧ t.mgmt.noticesDropped = u.mgmt.noticesDropped := by
  induction l generalizing s with
  | nil => exact ⟨rfl, rfl⟩
  | cons x xs ih =>
    intro t u
    obtain ⟨hx, hxs⟩ := List.nodup_cons.1 hl
    have hne (i : Slot) (hi : i ∈ xs) : i ≠ x := fun heq => hx (heq ▸ hi)
    have hfilter : xs.filter (fun i => ((s.quiesceContext x).ctx i).state.active) =
        xs.filter fun i => (s.ctx i).state.active :=
      List.filter_congr fun i hi => by rw [s.quiesceContext_others (hne i hi)]
    obtain ⟨ihnotices, ihdropped⟩ := ih (s.quiesceContext x) hxs
    rw [hfilter] at ihnotices ihdropped
    by_cases hactive : (s.ctx x).state.active = true
    · have hu : u = forEach (xs.filter fun i => (s.ctx i).state.active) (fun i s => s.applyAll i .atRest)
          (s.applyAll x .atRest) :=
        congrArg (fun l => forEach l (fun i s => s.applyAll i .atRest) s)
          (List.filter_cons_of_pos (p := fun i => (s.ctx i).state.active) hactive)
      have hbindings : ∀ i ∈ xs.filter (fun i => (s.ctx i).state.active),
          ((s.quiesceContext x).ctx i).bindings = ((s.applyAll x .atRest).ctx i).bindings := fun i hi => by
        have hix := hne i (List.mem_filter.1 hi).1
        rw [s.quiesceContext_others hix, State.applyAll_ctx_ne _ _ _ _ hix]
      have hmgmt := s.quiesceContext_mgmt hactive
      obtain ⟨hnotices, hdropped⟩ := forEach_applyAll_offers _ (s.quiesceContext x) (s.applyAll x .atRest)
        (hxs.filter _) hbindings (by rw [hmgmt]) (by rw [hmgmt]) (by rw [hmgmt])
      rw [hu]
      exact ⟨ihnotices.trans hnotices, ihdropped.trans hdropped⟩
    · have ht : t = forEach xs (fun i s => s.quiesceContext i) s :=
        congrArg (forEach xs fun i s => s.quiesceContext i) (s.quiesceContext_inactive hactive)
      have hu : u = forEach (xs.filter fun i => (s.ctx i).state.active) (fun i s => s.applyAll i .atRest) s :=
        congrArg (fun l => forEach l (fun i s => s.applyAll i .atRest) s)
          (List.filter_cons_of_neg (p := fun i => (s.ctx i).state.active) hactive)
      rw [s.quiesceContext_inactive hactive] at ihnotices ihdropped
      rw [ht, hu]
      exact ⟨ihnotices, ihdropped⟩

/-! ### The beginning of a quiesce (R175) -/

/-- The records and offers at the beginning of a quiesce; the rest of the state is `State.quiesceBegin_frame`. -/
theorem State.quiesceBegin_spec (s : State) (kind : ResetKind) (limit : Nat) :
    let t := s.quiesceBegin kind limit
    (∀ e, t.engine e = if (s.engine e).present = true then { s.engine e with pendingControl := some .quiesce }
      else s.engine e) ∧
    (∀ v, (s.quiesceEnds slots v → t.voice v = (s.voice v).ended s.timebase) ∧
      (¬ s.quiesceEnds slots v → t.voice v = s.voice v)) ∧
    (∀ i, t.ctx i = if (s.ctx i).state.active = true then (s.ctx i).quieted else s.ctx i) ∧
    t.mgmt.notices = (s.atRestApplied fun i => (s.ctx i).state.active).mgmt.notices ∧
    t.mgmt.noticesDropped = (s.atRestApplied fun i => (s.ctx i).state.active).mgmt.noticesDropped := by
  have hnodup : slots.Nodup := List.nodup_finRange 8
  have hsection := forEach_onlySection slots (fun i s => s.quiesceContext i)
    (s.setQuiesce { s.quiesce with phase := .quiescing, kind := some kind }) fun i t => (t.path_quiesceContext i).onlySection
  have hctx := State.ctx_quiesceContexts slots
    (s.setQuiesce { s.quiesce with phase := .quiescing, kind := some kind }) hnodup
  have hvoice := State.voice_quiesceContexts slots
    (s.setQuiesce { s.quiesce with phase := .quiescing, kind := some kind }) hnodup
  obtain ⟨hnotices, hdropped⟩ := State.quiesceContexts_offers slots
    (s.setQuiesce { s.quiesce with phase := .quiescing, kind := some kind }) hnodup
  have hoffers := forEach_applyAll_offers (slots.filter fun i => (s.ctx i).state.active)
    (s.setQuiesce { s.quiesce with phase := .quiescing, kind := some kind }) s (hnodup.filter _) (fun _ _ => rfl) rfl rfl rfl
  unfold State.quiesceBegin
  dsimp only
  generalize forEach slots (fun i s => s.quiesceContext i)
    (s.setQuiesce { s.quiesce with phase := .quiescing, kind := some kind }) = u at hsection hctx hvoice hnotices hdropped ⊢
  have hengine (e : EngineId) : u.engine e = s.engine e := by rw [hsection]; rfl
  refine ⟨fun e => ?_, hvoice, fun i => ?_, hnotices.trans hoffers.1, hdropped.trans hoffers.2⟩
  · rw [State.engine_setQuiesce, State.engine_demand, State.has_presentEngines, hengine]
  · refine (hctx i).trans ?_
    simp only [slots, List.mem_finRange, true_and]
    rfl

/-! ### RESET (R174) -/

theorem State.resetCommand_badLength (s : State) {params : List Byte} (h1 : params.length ≠ 1) (h2 : params.length ≠ 2) :
    s.resetCommand params = badLength :=
  match params, h1, h2 with
  | [], _, _ => rfl
  | [_], h1, _ => absurd rfl h1
  | [_, _], _, h2 => absurd rfl h2
  | _ :: _ :: _ :: _, _, _ => rfl

theorem resetKindOf_outside {x : Byte} (h1 : x ≠ 1) (h2 : x ≠ 2) : resetKindOf x = none := by
  rw [resetKindOf, if_neg h1, if_neg h2]

theorem State.resetWith_badKind (s : State) {x : Byte} (limit : Nat) (h1 : x ≠ 1) (h2 : x ≠ 2) :
    s.resetWith x limit = badValue := by
  simp only [State.resetWith, resetKindOf_outside h1 h2]

theorem State.resetWith_badLimit (s : State) (x : Byte) : s.resetWith x 0 = badValue := by
  unfold State.resetWith
  split <;> rfl

/-- The byte of a RESET's kind (R163). -/
def ResetKind.code : ResetKind → Byte
  | .sectionOnly => 1
  | .full => 2

theorem resetKindOf_code (kind : ResetKind) : resetKindOf kind.code = some kind := by
  cases kind <;> rfl

theorem State.resetWith_accepted (s : State) (kind : ResetKind) {limit : Nat} (h : limit ≠ 0) :
    s.resetWith kind.code limit = .started (s.quiesceBegin kind limit) .reset := by
  simp only [State.resetWith, resetKindOf_code, h, if_false]

/-- An accepted RESET, whose limit is 63 when omitted (R174). -/
theorem State.resetCommand_accepted (s : State) {params : List Byte} {kind : ResetKind} {limit : Byte}
    (h : (params = [kind.code] ∧ limit = 63) ∨ (params = [kind.code, limit] ∧ limit ≠ 0)) :
    s.resetCommand params = .started (s.quiesceBegin kind limit.toNat) .reset := by
  obtain ⟨rfl, rfl⟩ | ⟨rfl, hlimit⟩ := h
  · exact s.resetWith_accepted kind (by decide)
  · exact s.resetWith_accepted kind fun hzero => hlimit (BitVec.eq_of_toNat_eq hzero)

/-- The state at an accepted RESET, before the test whether its quiesce has ended. -/
def State.resetBegun (s : State) (tag : Byte) (params : List Byte) (kind : ResetKind) (limit : Byte) : State :=
  ((s.held tag 0x70).quiesceBegin kind limit.toNat).setInProgress ⟨tag, 0x70, params⟩ .reset

theorem State.startHeld_reset {s t : State} {c : Cmd} (h : s.carryOut c = .started t .reset) :
    s.startHeld c = (t.setInProgress c .reset).quiesceTest := by
  simp only [State.startHeld, h]

theorem exec_reset_accepted {s : State} {tag : Byte} {params : List Byte} {kind : ResetKind} {limit : Byte}
    (h : s.consoleReady) (hn : params.length ≤ 40)
    (hparams : (params = [kind.code] ∧ limit = 63) ∨ (params = [kind.code, limit] ∧ limit ≠ 0)) :
    exec (.reset tag params) s = .next (s.resetBegun tag params kind limit).quiesceTest := by
  have hanswer := ((s.held tag 0x70).carryOut_resetCommand tag params).trans
    ((s.held tag 0x70).resetCommand_accepted hparams)
  exact congrArg Host.Outcome.next
    ((s.consoleCommand_ready 0x70 tag params h hn).trans (State.startHeld_reset hanswer))

theorem State.resetBegun_frame (s : State) (tag : Byte) (params : List Byte) (kind : ResetKind) (limit : Byte) :
    let t := s.resetBegun tag params kind limit
    t = { s.holding tag 0x70 params .reset with
      contexts := t.contexts
      voices := t.voices
      engines := t.engines
      quiesce := ⟨.quiescing, some kind, s.presentEngines, 0, 0, Timer.start (16 * limit.toNat)⟩
      mgmt := { (s.holding tag 0x70 params .reset).mgmt with
        notices := (s.atRestApplied fun i => (s.ctx i).state.active).mgmt.notices
        noticesDropped := (s.atRestApplied fun i => (s.ctx i).state.active).mgmt.noticesDropped } } := by
  have hframe := (s.held tag 0x70).quiesceBegin_frame kind limit.toNat
  obtain ⟨-, -, -, hnotices, hdropped⟩ := (s.held tag 0x70).quiesceBegin_spec kind limit.toNat
  have hoffers := forEach_applyAll_offers (slots.filter fun i => (s.ctx i).state.active) (s.held tag 0x70) s
    ((List.nodup_finRange 8).filter _) (fun _ _ => rfl) rfl rfl rfl
  have hnotices := hnotices.trans hoffers.1
  have hdropped := hdropped.trans hoffers.2
  unfold State.resetBegun
  generalize (s.held tag 0x70).quiesceBegin kind limit.toNat = u at hframe hnotices hdropped ⊢
  dsimp only at hframe
  rw [hnotices, hdropped] at hframe
  exact congrArg (fun t => t.setInProgress ⟨tag, 0x70, params⟩ .reset) hframe

theorem State.resetBegun_spec (s : State) (tag : Byte) (params : List Byte) (kind : ResetKind) (limit : Byte) :
    let t := s.resetBegun tag params kind limit
    (∀ e, t.engine e = if (s.engine e).present = true then { s.engine e with pendingControl := some .quiesce }
      else s.engine e) ∧
    (∀ v, (s.quiesceEnds slots v → t.voice v = (s.voice v).ended s.timebase) ∧
      (¬ s.quiesceEnds slots v → t.voice v = s.voice v)) ∧
    ∀ i, t.ctx i = if (s.ctx i).state.active = true then (s.ctx i).quieted else s.ctx i := by
  obtain ⟨hengine, hvoice, hctx, -⟩ := (s.held tag 0x70).quiesceBegin_spec kind limit.toNat
  unfold State.resetBegun
  generalize (s.held tag 0x70).quiesceBegin kind limit.toNat = u at hengine hvoice hctx ⊢
  exact ⟨hengine, hvoice, hctx⟩

theorem State.resetBegun_quiesce (s : State) (tag : Byte) (params : List Byte) (kind : ResetKind) (limit : Byte) :
    (s.resetBegun tag params kind limit).quiesce =
      ⟨.quiescing, some kind, s.presentEngines, 0, 0, Timer.start (16 * limit.toNat)⟩ := by
  rw [s.resetBegun_frame]

/-- The quiesce has nobody to wait for exactly when no engine is present (R175, R177). -/
theorem State.resetBegun_complete_iff (s : State) (tag : Byte) (params : List Byte) (kind : ResetKind) (limit : Byte) :
    (s.resetBegun tag params kind limit).quiesce.complete = true ↔ ∀ e, (s.engine e).present = false := by
  rw [s.resetBegun_quiesce, Quiesce.complete_iff]
  simp only [Quiesce.has_unacknowledged, EngineSet.has_zero, Bool.not_false, Bool.and_true, State.has_presentEngines,
    true_and]

/-- Settles O56. -/
theorem resetBeginsQuiesce : Obligations.ResetBeginsQuiesce := by
  intro s tag params h hn
  refine ⟨fun h1 h2 => ?_, fun x limit hparams h1 h2 => ?_, fun x hparams => ?_, fun kind limit => ?_⟩
  · exact next_refused h hn (State.resetCommand_badLength _ h1 h2)
  · obtain rfl | rfl := hparams
    · exact next_refused h hn (State.resetWith_badKind (s.held tag 0x70) 63 h1 h2)
    · exact next_refused h hn (State.resetWith_badKind (s.held tag 0x70) limit.toNat h1 h2)
  · subst hparams
    exact next_refused h hn (State.resetWith_badLimit (s.held tag 0x70) x)
  · intro code hparams active begun
    have hcode : code = kind.code := by cases kind <;> rfl
    rw [hcode] at hparams
    rw [exec_reset_accepted h hn hparams]
    have hbegun : begun (s.resetBegun tag params kind limit) := by
      obtain ⟨hengine, hvoice, hctx⟩ := s.resetBegun_spec tag params kind limit
      refine ⟨s.resetBegun_frame tag params kind limit, fun x => ⟨s.has_presentEngines x, hengine x⟩, fun v => ?_, fun i =>
        ⟨fun hidle => ?_, fun hactive => ?_⟩⟩
      · have hends : (∃ i, active i = true ∧ v ∈ (s.ctx i).noteVoices) ↔ s.quiesceEnds slots v := by
          simp only [State.quiesceEnds, slots, List.mem_finRange, true_and, active]
        split
        · next hv => exact (hvoice v).1 (hends.1 hv)
        · next hv => exact (hvoice v).2 fun hv' => hv (hends.2 hv')
      · exact (hctx i).trans (if_neg (Bool.eq_false_iff.1 hidle))
      · exact (hctx i).trans (if_pos hactive)
    refine ⟨fun ⟨e, he⟩ => ⟨_, rfl, ?_⟩, fun hnone => ?_⟩
    · have hgoing : (s.resetBegun tag params kind limit).quiesce.complete = false := by
        refine Bool.eq_false_iff.2 fun hc => ?_
        rw [(s.resetBegun_complete_iff tag params kind limit).1 hc e] at he
        cases he
      rw [State.quiesceTest_going hgoing]
      exact hbegun
    · have hclean := (s.resetBegun_complete_iff tag params kind limit).2 hnone
      obtain ⟨-, -, -, -, hbuilt⟩ := h
      have hkind : (s.resetBegun tag params kind limit).quiesce.kind = some kind := by rw [s.resetBegun_quiesce]
      have hreplies : (s.resetBegun tag params kind limit).mgmt.replies = s.mgmt.replies ++ [⟨tag, 0x70, none⟩] := by
        rw [s.resetBegun_frame]
        rfl
      obtain ⟨t, hreset, hend⟩ := (s.resetBegun tag params kind limit).quiesceEnd_spec kind 0 false ⟨tag, 0x70, params⟩
        s.mgmt.replies hkind hreplies hbuilt
      rw [State.quiesceTest_clean hclean, hend]
      exact ⟨_, t, hbegun, hreset, rfl⟩

end Sys2Proof.Machine
end

section
/-! PROOFS. BIND: what it sets, what it stages and its refusals (R143 to R149), and BIND NOW "none" (R145). -/

namespace Sys2Proof.Machine

/-! ### The bytes of BIND (R143, R161) -/

theorem tableKindOf_code (k : TableKind) : tableKindOf k.code = some k := by
  cases k <;> rfl

theorem tableKindOf_outside {b : Byte} (h : b = 0 ∨ 3 < b.toNat) : tableKindOf b = none := by
  have h1 : b ≠ 1 := by rintro rfl; exact absurd h (by decide)
  have h2 : b ≠ 2 := by rintro rfl; exact absurd h (by decide)
  have h3 : b ≠ 3 := by rintro rfl; exact absurd h (by decide)
  rw [tableKindOf, if_neg h1, if_neg h2, if_neg h3]

/-- The code of a timing (R161). -/
def BindTiming.code : BindTiming → Byte
  | .now => 0
  | .atRest => 1
  | .atPhrase => 2

theorem bindTimingOf_code (t : BindTiming) : bindTimingOf t.code = some t := by
  cases t <;> rfl

theorem bindTimingOf_outside {b : Byte} (h : 2 < b.toNat) : bindTimingOf b = none := by
  have h0 : b ≠ 0 := by rintro rfl; exact absurd h (by decide)
  have h1 : b ≠ 1 := by rintro rfl; exact absurd h (by decide)
  have h2 : b ≠ 2 := by rintro rfl; exact absurd h (by decide)
  rw [bindTimingOf, if_neg h0, if_neg h1, if_neg h2]

theorem bindTimingOf_inside {b : Byte} (h : b.toNat ≤ 2) : ∃ t, bindTimingOf b = some t := by
  have hb : b = 0 ∨ b = 1 ∨ b = 2 := by bv_omega
  rcases hb with rfl | rfl | rfl
  · exact ⟨.now, rfl⟩
  · exact ⟨.atRest, rfl⟩
  · exact ⟨.atPhrase, rfl⟩

theorem targetOf_block (b : BlockId) : targetOf (byte b.val) = some (some b) := by
  have hlt := b.isLt
  have hne : byte b.val ≠ 0xFF := fun heq => by
    have hnat : (byte b.val).toNat = 255 := congrArg BitVec.toNat heq
    simp only [byte, BitVec.toNat_ofNat] at hnat
    omega
  rw [targetOf, if_neg hne, indexOf_byte b (by decide)]
  rfl

theorem targetOf_blockByte (target : Option BlockId) : targetOf (blockByte target) = some target := by
  cases target with
  | none => rfl
  | some b => exact targetOf_block b

theorem targetOf_outside {b : Byte} (h : 24 ≤ b.toNat) (hne : b ≠ 0xFF) : targetOf b = none := by
  rw [targetOf, if_neg hne, indexOf_outside b h]
  rfl

/-! ### The judgement of BIND (R143) -/

namespace State

variable (s : State)

theorem bindCommand_badLength {params : List Byte} (h : params.length ≠ 4) : s.bindCommand params = badLength := by
  unfold bindCommand
  split
  · exact absurd rfl h
  · rfl

theorem bindCommand_badValue {x kind target timing : Byte}
    (h : 8 ≤ x.toNat ∨ kind = 0 ∨ 3 < kind.toNat ∨ 2 < timing.toNat ∨ (24 ≤ target.toNat ∧ target ≠ 0xFF)) :
    s.bindCommand [x, kind, target, timing] = badValue := by
  have hnone : indexOf 8 x = none ∨ tableKindOf kind = none ∨ bindTimingOf timing = none ∨ targetOf target = none := by
    rcases h with hslot | hzero | hkind | htiming | ⟨hblock, hne⟩
    · exact .inl (indexOf_outside x hslot)
    · exact .inr (.inl (tableKindOf_outside (.inl hzero)))
    · exact .inr (.inl (tableKindOf_outside (.inr hkind)))
    · exact .inr (.inr (.inl (bindTimingOf_outside htiming)))
    · exact .inr (.inr (.inr (targetOf_outside hblock hne)))
  simp only [bindCommand]
  split
  · next hslot hkind htiming htarget => simp [hslot, hkind, htiming, htarget] at hnone
  · next hslot hkind htiming htarget => simp [hslot, hkind, htiming, htarget] at hnone
  · rfl

theorem bindCommand_block (i : Slot) (k : TableKind) (b : BlockId) {timing : Byte} {t : BindTiming}
    (ht : bindTimingOf timing = some t) : s.bindCommand [byte i.val, k.code, byte b.val, timing] =
      if (s.block b).state ≠ .valid then .refused .notValid [(s.block b).stateByte]
      else if (s.block b).kind ≠ some k then .refused .wrongKind [optKindByte (s.block b).kind]
      else s.bindDone i k (some b) t := by
  simp only [bindCommand, indexOf_byte i (by decide), tableKindOf_code, ht, targetOf_block]

/-- A BIND whose target, when it is a block, is VALID and of the kind is accepted. -/
theorem bindCommand_accepted (i : Slot) (k : TableKind) {target : Option BlockId} (t : BindTiming)
    (h : ∀ b, target = some b → (s.block b).state = .valid ∧ (s.block b).kind = some k) :
    s.bindCommand [byte i.val, k.code, blockByte target, t.code] = s.bindDone i k target t := by
  cases target with
  | none =>
    simp only [bindCommand, indexOf_byte i (by decide), tableKindOf_code, bindTimingOf_code, targetOf_blockByte]
  | some b =>
    obtain ⟨hstate, hkind⟩ := h b rfl
    exact (s.bindCommand_block i k b (bindTimingOf_code t)).trans
      ((if_neg (not_not_intro hstate)).trans (if_neg (not_not_intro hkind)))

/-! ### What an accepted BIND does at its context (R144, R145, R147, R148) -/

theorem bindAt_now_none (i : Slot) (k : TableKind)
    (h : (s.ctx i).state.active = false ∨ ((s.ctx i).bindings.get k).active = none) :
    s.bindAt i k none .now = (s.setCtx i ((s.ctx i).setBinding k ⟨none, none⟩), true) := by
  refine congrArg (·, true) (if_neg ?_)
  rintro ⟨hsome, hactive⟩
  rcases h with h | h
  · exact Bool.false_ne_true (h.symm.trans hactive)
  · rw [h] at hsome
    cases hsome

/-- An onset or a note of the performer is given up, as it is at the beginning of a quiesce. -/
theorem bindAt_now_none_active (i : Slot) (k : TableKind) (hactive : (s.ctx i).state.active = true)
    (hbound : ((s.ctx i).bindings.get k).active ≠ none) :
    s.bindAt i k none .now = ((s.setCtx i ((s.ctx i).setBinding k ⟨none, none⟩)).quiesceContext i, true) := by
  have hquiesce : (s.setCtx i ((s.ctx i).setBinding k ⟨none, none⟩)).quiesceContext i =
      ((s.setCtx i ((s.ctx i).setBinding k ⟨none, none⟩)).abandon i).enterReady i :=
    if_pos (by rw [ctx_setCtx_same]; exact hactive)
  rw [hquiesce]
  exact congrArg (·, true) (if_pos ⟨Option.isSome_iff_ne_none.2 hbound, hactive⟩)

theorem bindAt_atRest (i : Slot) (k : TableKind) (target : Option BlockId) : s.bindAt i k target .atRest =
    if (s.ctx i).state.active = true then
      (s.setCtx i ((s.ctx i).setBinding k ⟨((s.ctx i).bindings.get k).active, some ⟨target, .atRest⟩⟩), false)
    else (s.setCtx i ((s.ctx i).setBinding k ⟨target, none⟩), true) := rfl


/-- In READY a binding staged AT PHRASE starts a stopped phrase timer. -/
theorem bindAt_atPhrase (i : Slot) (k : TableKind) (target : Option BlockId) : s.bindAt i k target .atPhrase =
    (s.setCtx i
      (let c := (s.ctx i).setBinding k ⟨((s.ctx i).bindings.get k).active, some ⟨target, .atPhrase⟩⟩
       if c.state = .ready ∧ c.timers.phrase = none then
         { c with timers := { c.timers with phrase := Timer.start (64 * c.settings.phraseGap) } }
       else c), false) := by
  refine congrArg (·, false) ?_
  simp only [bindAtPhrase, stage, updCtx, ctx_setCtx_same, Timer.running, Option.isSome_iff_ne_none, not_not]
  split
  · exact setCtx_setCtx ..
  · rfl

theorem bindDone_setCtx {i : Slot} {k : TableKind} {target : Option BlockId} {t : BindTiming} {c : Context}
    {applied : Bool} (h : s.bindAt i k target t = (s.setCtx i c, applied)) : s.bindDone i k target t =
      .done (s.setCtx i c) ([byte i.val, k.code] ++ (bindingBytes (c.bindings.get k) ++ [yesNo applied])) := by
  simp only [bindDone, h, ctx_setCtx_same, List.append_assoc]

end State

/-! ### BIND at a ready console (R143 to R149) -/

theorem exec_bind_setCtx {s : State} {tag : Byte} {i : Slot} {k : TableKind} {target : Option BlockId} (t : BindTiming)
    {c : Context} {applied : Bool} (h : s.consoleReady)
    (hvalid : ∀ b, target = some b → (s.block b).state = .valid ∧ (s.block b).kind = some k)
    (hat : (s.held tag 0x20).bindAt i k target t = ((s.held tag 0x20).setCtx i c, applied)) :
    exec (.bind tag [byte i.val, k.code, blockByte target, t.code]) s =
      .next ((s.answered tag 0x20 none
        ([byte i.val, k.code] ++ (bindingBytes (c.bindings.get k) ++ [yesNo applied]))).setCtx i c) :=
  congrArg Host.Outcome.next (s.consoleCommand_setCtx i c 0x20 tag _ _ h (by simp)
    (((s.held tag 0x20).carryOut_bindCommand tag _).trans
      (((s.held tag 0x20).bindCommand_accepted i k t hvalid).trans ((s.held tag 0x20).bindDone_setCtx hat))))

/-- A binding that is set leaves the target active and nothing staged. -/
theorem exec_bind_active {s : State} {tag : Byte} {i : Slot} {k : TableKind} {target : Option BlockId} (t : BindTiming)
    (h : s.consoleReady)
    (hvalid : ∀ b, target = some b → (s.block b).state = .valid ∧ (s.block b).kind = some k)
    (hat : (s.held tag 0x20).bindAt i k target t =
      ((s.held tag 0x20).setCtx i ((s.ctx i).setBinding k ⟨target, none⟩), true)) :
    exec (.bind tag [byte i.val, k.code, blockByte target, t.code]) s =
      .next ((s.answered tag 0x20 none [byte i.val, k.code, blockByte target, 0xFF, 0, 1]).setCtx i
        ((s.ctx i).setBinding k ⟨target, none⟩)) := by
  rw [exec_bind_setCtx t h hvalid hat, Context.setBinding, Bindings.get_set_same]
  rfl

theorem Context.setBinding_get (c : Context) (k : TableKind) (b : Binding) : (c.setBinding k b).bindings.get k = b :=
  c.bindings.get_set_same k b

theorem exec_bind_staged {s : State} {tag : Byte} {i : Slot} {k : TableKind} {target : Option BlockId} (t : BindTiming)
    {c : Context} {timing : StagedTiming} (h : s.consoleReady)
    (hvalid : ∀ b, target = some b → (s.block b).state = .valid ∧ (s.block b).kind = some k)
    (hat : (s.held tag 0x20).bindAt i k target t = ((s.held tag 0x20).setCtx i c, false))
    (hget : c.bindings.get k = ⟨((s.ctx i).bindings.get k).active, some ⟨target, timing⟩⟩) :
    exec (.bind tag [byte i.val, k.code, blockByte target, t.code]) s =
      .next ((s.answered tag 0x20 none [byte i.val, k.code, blockByte ((s.ctx i).bindings.get k).active,
        blockByte target, timing.code, 0]).setCtx i c) := by
  rw [exec_bind_setCtx t h hvalid hat, hget]
  rfl

/-- Settles O47: by the timing, and the refusals by the judgement's order. -/
theorem bindSetsAndStages : Obligations.BindSetsAndStages := by
  unfold Obligations.BindSetsAndStages
  refine ⟨fun s tag i k target h hvalid => ?_, fun s tag params h hn => ?_⟩
  · intro old head shown
    refine ⟨fun hsome => ?_, fun hrest => ?_, fun habsent hready => ?_, ?_⟩
    · obtain ⟨b, rfl⟩ := Option.ne_none_iff_exists'.1 hsome
      exact exec_bind_active .now h hvalid rfl
    · have hactive : (s.ctx i).state.active = false := by
        rcases hrest with hstate | hstate <;> rw [hstate] <;> rfl
      exact exec_bind_active .atRest h hvalid (((s.held tag 0x20).bindAt_atRest i k target).trans
        (if_neg (Bool.eq_false_iff.1 hactive)))
    · have hactive : (s.ctx i).state.active = true := by
        cases hstate : (s.ctx i).state with
        | absent => exact absurd hstate habsent
        | ready => exact absurd hstate hready
        | onset | sounding | settling => rfl
      exact exec_bind_staged .atRest h hvalid (((s.held tag 0x20).bindAt_atRest i k target).trans (if_pos hactive))
        (Context.setBinding_get ..)
    · refine exec_bind_staged .atPhrase (timing := .atPhrase) h hvalid ((s.held tag 0x20).bindAt_atPhrase i k target) ?_
      dsimp only
      split <;> exact Context.setBinding_get ..
  · intro refused
    have hrefused : ∀ {cause data}, (s.held tag 0x20).bindCommand params = .refused cause data → refused cause data :=
      fun hjudged => next_refused h hn (((s.held tag 0x20).carryOut_bindCommand tag _).trans hjudged)
    refine ⟨fun hlength => hrefused (State.bindCommand_badLength _ hlength), fun x kind target timing hparams hvalue => ?_,
      fun i k b timing hparams htiming => ?_⟩
    · subst hparams
      exact hrefused (State.bindCommand_badValue _ hvalue)
    · subst hparams
      obtain ⟨t, ht⟩ := bindTimingOf_inside htiming
      have hjudged := (s.held tag 0x20).bindCommand_block i k b ht
      refine ⟨fun hstate => hrefused ?_, fun hstate hkind => hrefused ?_⟩
      · rw [← Block.stateByte_eq]
        exact hjudged.trans (if_pos hstate)
      · exact hjudged.trans ((if_neg (not_not_intro hstate)).trans (if_pos hkind))

/-! ### BIND NOW "none" (R145) -/

/-- BIND NOW "none" of an active binding under an onset or a note: its reply, and the section as the quiesce of the performer
leaves it. -/
theorem exec_bindNow_none_active {s : State} (tag : Byte) {i : Slot} {k : TableKind} (h : s.consoleReady)
    (hactive : (s.ctx i).state.active = true) (hbound : ((s.ctx i).bindings.get k).active ≠ none) :
    exec (.bind tag [byte i.val, k.code, 0xFF, 0]) s =
      .next ((s.answered tag 0x20 none [byte i.val, k.code, 0xFF, 0xFF, 0, 1]).withSection
        (((s.held tag 0x20).setCtx i ((s.ctx i).setBinding k ⟨none, none⟩)).quiesceContext i)) := by
  obtain ⟨hsection, -, -, hctx⟩ :=
    ((s.held tag 0x20).setCtx i ((s.ctx i).setBinding k ⟨none, none⟩)).quiesceContext_spec i
  have hat := (s.held tag 0x20).bindAt_now_none_active i k hactive hbound
  have hget : ((((s.held tag 0x20).setCtx i ((s.ctx i).setBinding k ⟨none, none⟩)).quiesceContext i).ctx i).bindings.get
      k = ⟨none, none⟩ := by
    have hunbound : ((s.ctx i).setBinding k ⟨none, none⟩).state.active = true := hactive
    rw [hctx, State.ctx_setCtx_same, if_pos hunbound, Context.quieted, Bindings.get_appliedAll, Context.setBinding_get]
    rfl
  have hdone : (s.held tag 0x20).bindDone i k none .now =
      .done (((s.held tag 0x20).setCtx i ((s.ctx i).setBinding k ⟨none, none⟩)).quiesceContext i)
        [byte i.val, k.code, 0xFF, 0xFF, 0, 1] := by
    simp only [State.bindDone, hat, State.held_ctx, hget, List.cons_append, List.nil_append]
    rfl
  exact congrArg Host.Outcome.next (s.consoleCommand_section _ 0x20 tag _ _ h (by simp)
    (((s.held tag 0x20).carryOut_bindCommand tag _).trans
      (((s.held tag 0x20).bindCommand_accepted i k .now (target := none) (by simp)).trans hdone))
    ((State.onlySection_setCtx _ _ _).trans hsection))

/-- Settles O48: by whether the binding that goes has an onset or a note under it. -/
theorem bindNowNone : Obligations.BindNowNone := by
  unfold Obligations.BindNowNone
  intro s tag i k h reply unbound
  refine ⟨fun hrest => ?_, fun hactive hbound => ?_⟩
  · exact exec_bind_active (target := none) .now h (by simp) ((s.held tag 0x20).bindAt_now_none i k hrest)
  · have hunbound : (((s.held tag 0x20).setCtx i ((s.ctx i).setBinding k ⟨none, none⟩)).ctx i).state.active = true := by
      rwa [State.ctx_setCtx_same]
    have hmgmt := ((s.held tag 0x20).setCtx i ((s.ctx i).setBinding k ⟨none, none⟩)).quiesceContext_mgmt hunbound
    obtain ⟨hnotices, hdropped⟩ := State.applyAll_offers (i := i) .atRest (t := unbound)
      (s := (s.held tag 0x20).setCtx i ((s.ctx i).setBinding k ⟨none, none⟩)) ⟨by simp [unbound], rfl, rfl, rfl⟩
    obtain ⟨-, hvoices, hothers, hctx⟩ :=
      ((s.held tag 0x20).setCtx i ((s.ctx i).setBinding k ⟨none, none⟩)).quiesceContext_spec i
    refine ⟨_, exec_bindNow_none_active tag h hactive hbound, fun v => ?_, fun j hj => ?_,
      State.onlySection_withSection _ _, (congrArg Management.notices hmgmt).trans hnotices,
      (congrArg Management.noticesDropped hmgmt).trans hdropped, ?_⟩
    · refine (hvoices v).trans ?_
      rw [State.ctx_setCtx_same]
      simp only [Context.setBinding, hactive, true_and]
      rfl
    · exact (hothers j hj).trans (State.ctx_setCtx_ne _ _ _ _ hj)
    · refine hctx.trans ?_
      simp only [unbound, State.ctx_setCtx_same]
      exact if_pos hactive

end Sys2Proof.Machine
end

section
/-! PROOFS. The Management Unit's queue: a command that arrives in a frame (R157, R163, R166 to R169), and the start of the
commands that wait (R115, R167). -/

namespace Sys2Proof.Machine

/-! ### Refusals (R168) -/

/-- The refusal that an answer is, if it is one. -/
def Answer.refusal : Answer → Option (Cause × List Byte)
  | .done _ _ => none
  | .refused cause data => some (cause, data)
  | .started _ _ => none

theorem Answer.refusal_started (s : State) (work : Work) : (Answer.started s work).refusal = none := rfl

theorem Answer.refusal_eq_some_iff (a : Answer) (cause : Cause) (data : List Byte) :
    a.refusal = some (cause, data) ↔ a = .refused cause data := by
  cases a <;> simp [Answer.refusal]

section

variable (s t : State) (params : List Byte)

/-! Judged by their parameters alone. -/

theorem performerSet_refusal : (t.performerSet params).refusal = (s.performerSet params).refusal := by
  unfold State.performerSet
  (repeat' split) <;> rfl

theorem performerEnable_refusal : (t.performerEnable params).refusal = (s.performerEnable params).refusal := by
  unfold State.performerEnable
  (repeat' split) <;> rfl

theorem performerDisable_refusal : (t.performerDisable params).refusal = (s.performerDisable params).refusal := by
  unfold State.performerDisable
  (repeat' split) <;> rfl

theorem performerRead_refusal : (t.performerRead params).refusal = (s.performerRead params).refusal := by
  unfold State.performerRead
  (repeat' split) <;> rfl

theorem engineSet_refusal : (t.engineSet params).refusal = (s.engineSet params).refusal := by
  unfold State.engineSet
  (repeat' split) <;> rfl

theorem engineRead_refusal : (t.engineRead params).refusal = (s.engineRead params).refusal := by
  unfold State.engineRead
  (repeat' split) <;> rfl

theorem voiceRead_refusal : (t.voiceRead params).refusal = (s.voiceRead params).refusal := by
  unfold State.voiceRead
  (repeat' split) <;> rfl

theorem arbiterSet_refusal : (t.arbiterSet params).refusal = (s.arbiterSet params).refusal := by
  unfold State.arbiterSet
  (repeat' split) <;> rfl

theorem arbiterRead_refusal : (t.arbiterRead params).refusal = (s.arbiterRead params).refusal := by
  unfold State.arbiterRead
  (repeat' split) <;> rfl

theorem blockRead_refusal : (t.blockRead params).refusal = (s.blockRead params).refusal := by
  unfold State.blockRead
  (repeat' split) <;> rfl

theorem noticeMaskSet_refusal : (t.noticeMaskSet params).refusal = (s.noticeMaskSet params).refusal := by
  unfold State.noticeMaskSet
  (repeat' split) <;> rfl

theorem resetWith_refusal (kind : Byte) (limit : Nat) : (t.resetWith kind limit).refusal = (s.resetWith kind limit).refusal := by
  cases hkind : resetKindOf kind with
  | none => simp only [State.resetWith, hkind, badValue, Answer.refusal]
  | some k => simp only [State.resetWith, hkind, apply_ite Answer.refusal, Answer.refusal_started]

theorem resetCommand_refusal : (t.resetCommand params).refusal = (s.resetCommand params).refusal := by
  unfold State.resetCommand
  split
  · exact resetWith_refusal s t _ _
  · exact resetWith_refusal s t _ _
  · rfl

end

section

variable {s t : State} (hblock : ∀ b, t.block b = s.block b) (hbound : ∀ b, t.bound b = s.bound b) (params : List Byte)

/-! Judged by a block and by what is bound as well. -/

include hblock

theorem bindCommand_refusal : (t.bindCommand params).refusal = (s.bindCommand params).refusal := by
  simp only [State.bindCommand, hblock]
  (repeat' split) <;> rfl

theorem tableCommit_refusal : (t.tableCommit params).refusal = (s.tableCommit params).refusal := by
  simp only [State.tableCommit, hblock]
  (repeat' split) <;> rfl

theorem tableVerify_refusal : (t.tableVerify params).refusal = (s.tableVerify params).refusal := by
  simp only [State.tableVerify, hblock]
  (repeat' split) <;> rfl

theorem tableBlankCheck_refusal : (t.tableBlankCheck params).refusal = (s.tableBlankCheck params).refusal := by
  simp only [State.tableBlankCheck, hblock]
  (repeat' split) <;> rfl

theorem tableRead_refusal : (t.tableRead params).refusal = (s.tableRead params).refusal := by
  simp only [State.tableRead, hblock]
  (repeat' split) <;> rfl

theorem tableLock_refusal : (t.tableLock params).refusal = (s.tableLock params).refusal := by
  simp only [State.tableLock, hblock]
  (repeat' split) <;> rfl

include hbound

theorem tableErase_refusal : (t.tableErase params).refusal = (s.tableErase params).refusal := by
  simp only [State.tableErase, hblock, hbound]
  (repeat' split) <;> rfl

theorem tableWrite_refusal : (t.tableWrite params).refusal = (s.tableWrite params).refusal := by
  simp only [State.tableWrite, hblock, hbound]
  (repeat' split) <;> rfl

omit hblock in
theorem storeClear_refusal : (t.storeClear params).refusal = (s.storeClear params).refusal := by
  have hlowest : t.lowestBound = s.lowestBound := by simp only [State.lowestBound, hbound]
  simp only [State.storeClear, hlowest]
  (repeat' split) <;> rfl

/-- Commands are refused by their parameters, by the blocks and by what is bound, and by nothing else. -/
theorem State.refusal_carryOut_congr (c : Cmd) : (t.carryOut c).refusal = (s.carryOut c).refusal := by
  unfold State.carryOut
  split
  · exact performerSet_refusal s t _
  · exact performerEnable_refusal s t _
  · exact performerDisable_refusal s t _
  · exact performerRead_refusal s t _
  · exact bindCommand_refusal hblock _
  · exact engineSet_refusal s t _
  · exact engineRead_refusal s t _
  · exact voiceRead_refusal s t _
  · exact arbiterSet_refusal s t _
  · exact arbiterRead_refusal s t _
  · exact tableErase_refusal hblock hbound _
  · exact tableWrite_refusal hblock hbound _
  · exact tableCommit_refusal hblock _
  · exact tableVerify_refusal hblock _
  · exact tableBlankCheck_refusal hblock _
  · exact tableRead_refusal hblock _
  · exact tableLock_refusal hblock _
  · exact blockRead_refusal s t _
  · exact storeClear_refusal hbound _
  · exact noticeMaskSet_refusal s t _
  · exact resetCommand_refusal s t _
  · rfl

end

/-! ### A COMMAND frame on the quiet link (R157, R166 to R168) -/

theorem exec_frameCommand {s : State} (tag code : Byte) {params : List Byte} (hs : s.linesQuiet) (hn : params.length ≤ 40) :
    exec (frameCommand tag code params) s = .next ((s.heard .gesture).arrive ⟨tag, code, params⟩) := by
  have hlength : (commandFrame tag code params).length = 5 + params.length := by simp [commandFrame, closed]; omega
  have hshort : (commandFrame tag code params).length < 48 := by omega
  have hjudged : (s.heard .gesture).judgeFrame .gesture (commandFrame tag code params) =
      (s.heard .gesture).arrive ⟨tag, code, params⟩ := by
    simp only [State.judgeFrame, judgeGestureLink_commandFrame tag code hn]
    rfl
  exact congrArg Host.Outcome.next ((State.whenRunning_receive .gesture hs hshort).trans hjudged)

theorem State.consoleCommand_arrive {s : State} (tag code : Byte) {params : List Byte} (h : s.power = .running)
    (hn : params.length ≤ 40) : s.consoleCommand code tag params = s.arrive ⟨tag, code, params⟩ :=
  (State.whenRunning_running s _ h).trans (if_pos hn)

theorem State.arrive_waits {s : State} (c : Cmd) (hroom : s.mgmt.waiting.length < 2)
    (hblocked : s.mgmt.inProgress ≠ none ∨ 2 ≤ s.mgmt.replies.length) :
    s.arrive c = { s with mgmt := { s.mgmt with waiting := s.mgmt.waiting ++ [c] } } :=
  (if_pos hroom).trans (State.startUpTo_blocked _ _ hblocked)

theorem State.arrive_lost {s : State} (c : Cmd) (hfull : 2 ≤ s.mgmt.waiting.length) :
    s.arrive c = { s with mgmt := { s.mgmt with overrun := true } } := if_neg (Nat.not_lt.2 hfull)

/-- A refusal does not depend on what the links have heard, nor on the held entry. -/
theorem State.heard_held_refused {s : State} {tag code : Byte} {c : Cmd} {cause : Cause} {data : List Byte}
    (h : s.carryOut c = .refused cause data) : ((s.heard .gesture).held tag code).carryOut c = .refused cause data :=
  (Answer.refusal_eq_some_iff _ cause data).1 ((State.refusal_carryOut_congr (s := s)
    (t := (s.heard .gesture).held tag code) (fun _ => rfl) (fun _ => rfl) c).trans
    ((Answer.refusal_eq_some_iff _ cause data).2 h))

/-- The codes of the commands (R163). -/
def commandCodes : List Byte := [0x10, 0x11, 0x12, 0x13, 0x20, 0x30, 0x31, 0x32, 0x40, 0x41, 0x50, 0x51, 0x52, 0x53, 0x54,
  0x55, 0x56, 0x57, 0x58, 0x60, 0x70]

theorem State.carryOut_unknown (s : State) (c : Cmd) (h : c.code ∉ commandCodes) :
    s.carryOut c = .refused .unknownCommand [] := by
  unfold State.carryOut
  split
  case h_22 => rfl
  all_goals
    next hcode =>
    refine absurd ?_ h
    rw [show c.code = BitVec.ofNat 8 c.code.toNat by simp, hcode]
    decide

/-- Settles O41: by what stands before the command. -/
theorem commandFrameArrives : Obligations.CommandFrameArrives := by
  unfold Obligations.CommandFrameArrives
  intro s tag code params hs hn
  rw [exec_frameCommand tag code hs hn]
  refine ⟨fun row hrow => ?_, fun hroom hblocked => ?_, fun hfull => ?_, fun cause data hready hrefused => ?_, fun hcode => ?_⟩
  · rw [Cmd.exec_row ⟨tag, code, params⟩ row _ hrow, State.consoleCommand_arrive (s := s.heard .gesture) tag code hs.1 hn]
  · rw [State.arrive_waits (s := s.heard .gesture) _ hroom hblocked]
    rfl
  · rw [State.arrive_lost (s := s.heard .gesture) _ hfull]
    rfl
  · have hready' : (s.heard .gesture).consoleReady := hready
    rw [State.arrive_ready _ _ hready', State.startHeld_refused _ _ _ _ hready' (State.heard_held_refused hrefused)]
  · exact s.carryOut_unknown ⟨tag, code, params⟩ hcode

/-! ### The start of the waiting commands (R115, R167, R169) -/

/-- COMMAND_START with one command waiting is the arrival of that command with none waiting. -/
theorem State.startWaiting_single {s : State} {c : Cmd} (hwaiting : s.mgmt.waiting = [c]) :
    s.startWaiting = (s.withQueue [] s.power).arrive c := by
  have hqueued : (s.withQueue [] s.power).arrive c = (s.withQueue [c] s.power).startWaiting := rfl
  rw [hqueued, ← hwaiting, State.withQueue_self]

theorem Cmd.carryOut_of_row_none {c : Cmd} (h : c.row = none) (s : State) : s.carryOut c = .refused .unknownCommand [] := by
  unfold State.carryOut
  split
  case h_22 => rfl
  all_goals
    next hcode =>
    simp only [Cmd.row, hcode] at h
    cases h

/-- What the start of the head waiting command leaves, before those behind it are tested. -/
theorem State.exec_commandStart_cons {s : State} {c : Cmd} {rest : List Cmd} (hpower : s.power = .running)
    (hwaiting : s.mgmt.waiting = c :: rest) (hidle : s.mgmt.inProgress = none) (hroom : s.mgmt.replies.length < 2) :
    exec .commandStart s = exec .commandStart (((s.hold c []).startHeld c).withQueue rest s.power) := by
  rw [s.exec_commandStart hpower, s.startWaiting_cons c rest hwaiting hidle hroom]
  exact (State.exec_commandStart (((s.hold c []).startHeld c).withQueue rest s.power) hpower).symm

/-- The refusal of a head waiting command whose code no row has. -/
theorem State.startHeld_unknown {s : State} {c : Cmd} (hpower : s.power = .running) (hrow : c.row = none)
    (hidle : s.mgmt.inProgress = none) (hroom : s.mgmt.replies.length < 2) (hbuilt : ∀ e ∈ s.mgmt.replies, e.result ≠ none) :
    (s.hold c []).startHeld c = (s.withQueue [] s.power).answered c.tag c.code (some .unknownCommand) [] :=
  (s.withQueue [] s.power).startHeld_refused c _ _ ⟨hpower, hidle, rfl, hroom, hbuilt⟩ (Cmd.carryOut_of_row_none hrow _)

theorem State.startWaiting_blocked {s : State}
    (h : s.mgmt.waiting = [] ∨ s.mgmt.inProgress ≠ none ∨ 2 ≤ s.mgmt.replies.length) : s.startWaiting = s := by
  rcases h with hnone | hblocked
  · exact s.startWaiting_nil hnone
  · exact State.startUpTo_blocked _ _ hblocked

theorem replyFrame_eq (tag code : Byte) (r : Built) : replyFrame tag code r =
    closed ([0x9E, tag, code, if r.cause = none then 0 else 1, match r.cause with | some c => c.code | none => 0,
      if r.overrun = true then 1 else 0, byte r.data.length] ++ r.data) := by
  obtain ⟨_ | cause, _ | _, data⟩ := r <;> rfl

theorem State.takeReply_cons {s : State} {tag code : Byte} {r : Built} {rest : List ReplyEntry}
    (h : s.mgmt.replies = ⟨tag, code, some r⟩ :: rest) :
    s.takeReply = (replyFrame tag code r, s.setMgmt { s.mgmt with replies := rest }) := by
  simp only [State.takeReply, h]

theorem State.take_reply {s : State} {tag code : Byte} {r : Built} {rest : List ReplyEntry} (band : Option Band)
    (h : s.mgmt.replies = ⟨tag, code, some r⟩ :: rest) : s.take ⟨.reply, .reply, band⟩ =
      { s with
        arbiter := (s.arbiter.moved ⟨.reply, .reply, band⟩).sending .reply (replyFrame tag code r)
        mgmt := { s.mgmt with replies := rest } } := by
  simp only [State.take, State.takeItem, State.takeReply_cons h]
  rfl

/-- A selection that takes a REPLY frees its entry and tests the waiting list. -/
theorem State.selection_reply {s : State} {band : Option Band} (hidle : s.arbiter.transmitter = none)
    (hchoice : s.choice = some ⟨.reply, .reply, band⟩) :
    s.selection = (s.take ⟨.reply, .reply, band⟩).startWaiting :=
  s.selection_eq _ hidle hchoice

/-- Settles O42: by what waits, and by whether a row has the head's code. -/
theorem commandStartTakesHead : Obligations.CommandStartTakesHead := by
  refine ⟨fun s c row hpower hwaiting hn hrow => ?single,
    fun s c rest hpower hwaiting hn hidle hroom hbuilt => ⟨fun row hrow => ?known, fun hrow => ?unknown⟩,
    fun s h => next_whenRunning_of_eq (State.startWaiting_blocked h),
    fun s tag code r rest band hpower hidle hchoice hreplies => ?reply⟩
  case single =>
    rw [s.exec_commandStart hpower, State.startWaiting_single hwaiting, c.exec_row row _ hrow,
      State.consoleCommand_arrive (s := { s with mgmt := { s.mgmt with waiting := [] } }) c.tag c.code hpower hn]
    rfl
  case known =>
    refine ⟨_, c.exec_row row _ hrow, (State.exec_commandStart_cons hpower hwaiting hidle hroom).trans ?_⟩
    obtain ⟨-, hkeeps⟩ := (s.hold c []).startHeld_keeps c
    rw [s.consoleCommand_starts c hpower hn hidle hroom, show s.power = ((s.hold c []).startHeld c).power from hkeeps.symm]
    rfl
  case unknown =>
    have hstart := State.exec_commandStart_cons hpower hwaiting hidle hroom
    rw [State.startHeld_unknown hpower hrow hidle hroom hbuilt] at hstart
    exact ⟨hstart, fun hrest => hstart.trans (next_whenRunning_of_eq (State.startWaiting_nil _ hrest))⟩
  case reply =>
    have hnext := next_startWaiting (t := s.take ⟨.reply, .reply, band⟩) ((State.take_reply band hreplies) ▸ hpower)
    rw [← State.selection_reply hidle hchoice, ← exec_selection s hpower, State.take_reply band hreplies] at hnext
    have hserves := s.arbiter.serves_sending ⟨.reply, .reply, band⟩ (replyFrame tag code r) nofun
    exact ⟨_, (congrArg (s.arbiter.serves _ _) (replyFrame_eq tag code r)).mp hserves, hnext⟩

end Sys2Proof.Machine
end

section
/-! PROOFS. The settle and the phrase expiry (R33, R36, R146, R150), and what an allocation request takes (R85 to R89). -/

namespace Sys2Proof.Machine

/-! ### The settle expiry (R33, R36) -/

theorem Timer.running_of_ne_none {t : Timer} (h : t ≠ none) : t.running = true := Option.isSome_iff_ne_none.2 h

theorem State.settleExpiry_settling {s : State} {i : Slot} {g : Gesture} (hstate : (s.ctx i).state = .settling)
    (htimer : (s.ctx i).timers.settle ≠ none) (hframe : (s.ctx i).lastFrame = some g) :
    s.settleExpiry i = (s.setCtx i (s.ctx i).closeWindow).settleCommit i g := by
  simp only [State.settleExpiry, Timer.running_of_ne_none htimer, hstate, hframe, if_true, State.updCtx_eq]

/-- Settles O21. -/
theorem settleExpiryCommits : Obligations.SettleExpiryCommits := by
  unfold Obligations.SettleExpiryCommits
  intro s i g hpower hstate htimer hframe _
  refine ⟨_, exec_settleExpiry s i hpower, ?_⟩
  rw [State.settleExpiry_settling hstate htimer hframe]
  exact ⟨State.settleCommit_commits _ i g, (State.onlySection_setCtx s i _).trans (State.onlySection_settleCommit _ i g)⟩

/-! ### The phrase expiry (R146, R150) -/

theorem State.phraseExpiry_ready {s : State} {i : Slot} (hstate : (s.ctx i).state = .ready)
    (htimer : (s.ctx i).timers.phrase ≠ none) : s.phraseExpiry i =
      (s.setCtx i { s.ctx i with timers := { (s.ctx i).timers with phrase := none } }).applyAll i .atPhrase := by
  conv_lhs => simp only [State.phraseExpiry, Timer.running_of_ne_none htimer, hstate, if_true, State.updCtx_eq]
  rfl

theorem State.applyStaged_some {s : State} {i : Slot} {timing : StagedTiming} {k : TableKind} {st : Staged}
    (h : ((s.ctx i).bindings.get k).staged = some st) : s.applyStaged i timing k =
      if st.timing = timing then
        (s.setCtx i ((s.ctx i).setBinding k ⟨st.target, none⟩)).offer (.bindingApplied i k st)
      else s := by
  simp only [State.applyStaged, h, State.updCtx_eq, Bindings.applied, Context.setBinding]

theorem State.applyStaged_none {s : State} {i : Slot} {timing : StagedTiming} {k : TableKind}
    (h : ((s.ctx i).bindings.get k).staged = none) : s.applyStaged i timing k = s := by
  simp only [State.applyStaged, h]

/-- Settles O25. -/
theorem phraseExpiryApplies : Obligations.PhraseExpiryApplies := by
  unfold Obligations.PhraseExpiryApplies
  refine ⟨fun s i hpower hstate htimer => ?_, fun s i timing => ⟨fun k => ?_, rfl, s.applyAll_ctx i timing,
    fun j hj => s.applyAll_ctx_ne i j timing hj, s.onlySection_applyAll i timing, s.applyAll_voices i timing⟩⟩
  · rw [exec_phraseExpiry s i hpower, State.phraseExpiry_ready hstate htimer]
  · cases hstaged : ((s.ctx i).bindings.get k).staged with
    | none => exact State.applyStaged_none hstaged
    | some st => exact State.applyStaged_some hstaged

/-! ### Searching (R85) -/

/-- In an ordered list the search finds the element that is better than all before it, when none is better than it. -/
theorem best_eq_some {α : Type} [LT α] {better : α → α → Bool} {l : List α} (hl : l.Pairwise (· < ·)) {v : α} (hv : v ∈ l)
    (hbest : ∀ w ∈ l, better w v = false) (hfirst : ∀ w ∈ l, w < v → better v w = true) : best better l = some v := by
  induction l with
  | nil => cases hv
  | cons x xs ih =>
    obtain ⟨hx, hxs⟩ := List.pairwise_cons.1 hl
    rcases List.mem_cons.1 hv with rfl | hmem
    · unfold best
      cases hrest : best better xs with
      | none => rfl
      | some y => exact if_neg (Bool.eq_false_iff.1 (hbest y (List.mem_cons_of_mem _ (best_mem _ _ _ hrest))))
    · have hrest := ih hxs hmem (fun w hw => hbest w (List.mem_cons_of_mem _ hw))
        fun w hw => hfirst w (List.mem_cons_of_mem _ hw)
      simp only [best, hrest, hfirst x List.mem_cons_self (hx v hmem), if_true]

theorem engineVoices_sorted (e : Nat) : (engineVoices e).Pairwise (· < ·) :=
  (List.pairwise_lt_finRange 96).filter _

/-! ### Which voice an allocation request takes (R85) -/

/-- The lowest-indexed FREE voice of an engine (R85, step 1). -/
theorem State.freeVoice_eq_some {s : State} {engine : Nat} {v : VoiceId} (hat : (engineOf v).val = engine)
    (hfree : (s.voice v).state = .free)
    (hfirst : ∀ w, (engineOf w).val = engine → w < v → (s.voice w).state ≠ .free) : s.freeVoice engine = some v := by
  have hmem := (mem_engineVoices engine v).2 hat
  cases hfound : s.freeVoice engine with
  | none => exact absurd (decide_eq_true hfree) (List.find?_eq_none.1 hfound v hmem)
  | some u =>
    have hu := (mem_engineVoices engine u).1 (List.mem_of_find?_eq_some hfound)
    have hle := find_least (fun v : VoiceId => v.val) _ (engineVoices_sorted engine) _ u v hfound hmem (decide_eq_true hfree)
    rcases Nat.lt_or_eq_of_le hle with hlt | heq
    · exact absurd (State.freeVoice_state hfound) (hfirst u hu hlt)
    · rw [Fin.ext heq]

theorem State.freeVoice_eq_none {s : State} {engine : Nat}
    (h : ∀ v, (engineOf v).val = engine → (s.voice v).state ≠ .free) : s.freeVoice engine = none :=
  List.find?_eq_none.2 fun v hv => by simpa using h v ((mem_engineVoices engine v).1 hv)

/-- The RELEASING voice of an engine with the oldest release stamp, the lowest index first among equals (R85, step 2). -/
theorem State.oldestReleasing_eq_some {s : State} {engine : Nat} {v : VoiceId} (hat : (engineOf v).val = engine)
    (hstate : (s.voice v).state = .releasing)
    (holdest : ∀ w, (engineOf w).val = engine → (s.voice w).state = .releasing →
      s.age (s.voice w).releaseStamp ≤ s.age (s.voice v).releaseStamp ∧
      (w < v → s.age (s.voice w).releaseStamp < s.age (s.voice v).releaseStamp)) : s.oldestReleasing engine = some v := by
  refine best_eq_some ((engineVoices_sorted engine).filter _) ?_ (fun w hw => ?_) fun w hw hlt => ?_
  · simp [hat, hstate]
  · simp only [List.mem_filter, mem_engineVoices, decide_eq_true_eq] at hw
    exact decide_eq_false (Nat.not_lt.2 (holdest w hw.1 hw.2).1)
  · simp only [List.mem_filter, mem_engineVoices, decide_eq_true_eq] at hw
    exact decide_eq_true ((holdest w hw.1 hw.2).2 hlt)

theorem State.oldestReleasing_eq_none {s : State} {engine : Nat}
    (h : ∀ v, (engineOf v).val = engine → (s.voice v).state ≠ .releasing) : s.oldestReleasing engine = none :=
  (best_eq_none _ _).2 (List.filter_eq_nil_iff.2 fun v hv => by simpa using h v ((mem_engineVoices engine v).1 hv))

/-- A SOUNDING voice of an engine that a requester may take from its owner (R85, step 3). -/
def State.robbable (s : State) (i : Slot) (engine : Nat) (v : VoiceId) (o : Slot) : Prop :=
  (engineOf v).val = engine ∧ (s.voice v).state = .sounding ∧ (s.voice v).owner = some o ∧ o ≠ i ∧
    (s.ctx o).settings.precedence < (s.ctx i).settings.precedence

theorem State.mem_stealable_iff (s : State) (i : Slot) (engine : Nat) (v : VoiceId) :
    v ∈ (engineVoices engine).filter (s.stealable i) ↔ ∃ o, s.robbable i engine v o := by
  simp only [List.mem_filter, mem_engineVoices, State.stealable_iff, State.robbable, exists_and_left]

theorem State.betterVictim_eq {s : State} {v w : VoiceId} {o p : Slot} (hv : (s.voice v).owner = some o)
    (hw : (s.voice w).owner = some p) : s.betterVictim v w = true ↔
      (s.ctx o).settings.precedence < (s.ctx p).settings.precedence ∨
        ((s.ctx o).settings.precedence = (s.ctx p).settings.precedence ∧
          s.age (s.voice w).startStamp < s.age (s.voice v).startStamp) := by
  simp [State.betterVictim, State.ownerPrecedence, hv, hw]

/-- The victim is of the lowest precedence, then of the oldest start stamp, then of the lowest index. -/
theorem State.victim_eq_some {s : State} {i o : Slot} {engine : Nat} {v : VoiceId} (hv : s.robbable i engine v o)
    (hworst : ∀ w p, s.robbable i engine w p → (s.ctx o).settings.precedence ≤ (s.ctx p).settings.precedence ∧
      ((s.ctx o).settings.precedence = (s.ctx p).settings.precedence →
        s.age (s.voice w).startStamp ≤ s.age (s.voice v).startStamp ∧
        (w < v → s.age (s.voice w).startStamp < s.age (s.voice v).startStamp))) : s.victim i engine = some v := by
  obtain ⟨-, -, hvo, -⟩ := id hv
  refine best_eq_some ((engineVoices_sorted engine).filter _) ((s.mem_stealable_iff i engine v).2 ⟨o, hv⟩)
    (fun w hw => ?_) fun w hw hlt => ?_
  · obtain ⟨p, hp⟩ := (s.mem_stealable_iff i engine w).1 hw
    obtain ⟨hprecedence, hage⟩ := hworst w p hp
    obtain ⟨-, -, hwp, -⟩ := hp
    rw [Bool.eq_false_iff, ne_eq, State.betterVictim_eq hwp hvo]
    rintro (hlower | ⟨hequal, holder⟩)
    · exact absurd hprecedence (Nat.not_le.2 hlower)
    · exact absurd (hage hequal.symm).1 (Nat.not_le.2 holder)
  · obtain ⟨p, hp⟩ := (s.mem_stealable_iff i engine w).1 hw
    obtain ⟨hprecedence, hage⟩ := hworst w p hp
    obtain ⟨-, -, hwp, -⟩ := hp
    rw [State.betterVictim_eq hvo hwp]
    exact (Nat.lt_or_eq_of_le hprecedence).imp_right fun hequal => ⟨hequal, (hage hequal).2 hlt⟩

theorem State.victim_eq_none {s : State} {i : Slot} {engine : Nat} (h : ∀ v o, ¬ s.robbable i engine v o) :
    s.victim i engine = none :=
  (best_eq_none _ _).2 (List.eq_nil_iff_forall_not_mem.2 fun v hv => by
    obtain ⟨o, ho⟩ := (s.mem_stealable_iff i engine v).1 hv
    exact h v o ho)

/-! ### What an allocation request does to the voice it takes (R86, R87) -/

/-- A START that was not sent stays a START; anything else that is taken over is retaken. -/
theorem restruck_eq (pending : Option Discrete) (program velocity : Nat) : restruck pending program velocity =
    match pending with
    | some (.start _ _) => some (.start program velocity)
    | _ => some (.retake program velocity) := by
  rcases pending with _ | _ | _ | _ <;> rfl

theorem NoteRecord.without_voice (n : NoteRecord) (v : VoiceId) : n.without (· == v) =
    { n with voices := n.voices.map fun x => if x = some v then none else x } := by
  refine congrArg (fun voices => { n with voices := voices }) (List.map_congr_left fun e _ => ?_)
  rcases e with _ | w
  · rfl
  · simp

theorem Context.lose_voice (c : Context) (v : VoiceId) : c.lose (· == v) =
    { c with note := c.note.map fun n => { n with voices := n.voices.map fun x => if x = some v then none else x } } := by
  simp only [Context.lose, NoteRecord.without_voice]

/-- The record of a voice that is taken over. -/
theorem Voice.stolen_eq (r : Voice) (i : Slot) (index : Nat) (layer : Layer) (velocity : Nat) (now : Stamp) :
    r.stolen i index layer velocity now =
      { r with
        state := .sounding
        owner := some i
        layer := some index
        copy := some layer
        startStamp := now
        pending :=
          match r.pending with
          | some (.start _ _) => some (.start layer.program velocity)
          | _ => some (.retake layer.program velocity)
        flags := .clear
        tailTimer := none } :=
  congrArg (fun pending => { r.stolen i index layer velocity now with pending := pending })
    (restruck_eq r.pending layer.program velocity)

theorem State.steal_releasing {s : State} {v : VoiceId} (i : Slot) (index : Nat) (layer : Layer) (velocity : Nat)
    (h : (s.voice v).state = .releasing) :
    s.steal v i index layer velocity = s.setVoice v ((s.voice v).stolen i index layer velocity s.timebase) := by
  have hkept : s.dispossess v = s := by simp only [State.dispossess, h]
  rw [State.steal, hkept, State.updVoice_eq]

theorem State.steal_sounding {s : State} {v : VoiceId} {o : Slot} (i : Slot) (index : Nat) (layer : Layer) (velocity : Nat)
    (hstate : (s.voice v).state = .sounding) (howner : (s.voice v).owner = some o) :
    s.steal v i index layer velocity = (s.setCtx o ((s.ctx o).lose (· == v))).setVoice v
      ((s.voice v).stolen i index layer velocity s.timebase) := by
  have hlost : s.dispossess v = s.setCtx o ((s.ctx o).lose (· == v)) := by
    simp only [State.dispossess, hstate, howner, State.updCtx_eq]
  rw [State.steal, hlost, State.updVoice_eq]
  rfl

/-- Settles O32: by the steps of the request. -/
theorem allocationAnswers : Obligations.AllocationAnswers := by
  unfold Obligations.AllocationAnswers
  intro s i index velocity layer
  dsimp only
  refine ⟨s.allocate_onlySection i index layer velocity, fun v hat hfree hfirst => ?free, fun hnofree =>
    ⟨fun v hat hstate holdest => ?releasing, fun hnoreleasing => ⟨fun v o hrob hworst => ?stolen, fun hnone => ?denied⟩⟩⟩
  case free =>
    simp only [State.allocate, State.freeVoice_eq_some hat hfree hfirst, State.updVoice_eq]
    rfl
  case releasing =>
    have hanswer : s.allocate i index layer velocity = (some v, s.steal v i index layer velocity) := by
      simp only [State.allocate, State.freeVoice_eq_none hnofree, State.oldestReleasing_eq_some hat hstate holdest]
    rw [hanswer, State.steal_releasing i index layer velocity hstate]
    exact congrArg (fun r => (some v, s.setVoice v r)) (Voice.stolen_eq _ i index layer velocity _)
  case stolen =>
    obtain ⟨-, hstate, howner, -⟩ := id hrob
    have hanswer : s.allocate i index layer velocity = (some v, s.steal v i index layer velocity) := by
      simp only [State.allocate, State.freeVoice_eq_none hnofree, State.oldestReleasing_eq_none hnoreleasing,
        State.victim_eq_some (s := s) hrob hworst]
    rw [hanswer, State.steal_sounding i index layer velocity hstate howner, Context.lose_voice]
    exact congrArg (fun r => (some v, (s.setCtx o _).setVoice v r)) (Voice.stolen_eq _ i index layer velocity _)
  case denied =>
    simp only [State.allocate, State.freeVoice_eq_none hnofree, State.oldestReleasing_eq_none hnoreleasing,
      State.victim_eq_none (s := s) hnone]

end Sys2Proof.Machine
end

section
/-! PROOFS. A GESTURE frame at a performer without a note: the join, the onset crossing, the attack and the note's start
(R8, R9, R46 to R50, R54). -/

namespace Sys2Proof.Machine

/-! ### A note start on a frame that is then kept (R7, R54) -/

/-- A note start on a frame, the frame then kept as the last. -/
def State.noteStartKept (s : State) (i : Slot) (attackTime : Nat) (g : Gesture) : State :=
  (s.noteStart i attackTime g).setCtx i { (s.noteStart i attackTime g).ctx i with lastFrame := some g }

/-- A note start begins the note as seen from any state that agrees on what the start reads, whatever the state, the onset
record and the timers were. -/
theorem State.noteStartKept_noteBegun {s u : State} {i : Slot} {curve : Curve} {state : PerformerState}
    {onset : Option OnsetRecord} {timers : Timers} (attackTime : Nat) (g : Gesture) (hpool : u.poolAgrees s i)
    (hblocks : u.blocks = s.blocks) (hc : s.activeCurve i = some curve)
    (hu : u.ctx i = { s.ctx i with state := state, onset := onset, timers := timers }) :
    let t := u.noteStartKept i attackTime g
    s.noteBegun t i g curve attackTime ∧ (t.ctx i).timers = { timers with attack := none, glideStep := none } ∧
      (t.ctx i).deferredOnset = (s.ctx i).deferredOnset ∧ u.onlySection t := by
  intro t
  have hbindings : (u.ctx i).bindings = (s.ctx i).bindings := by rw [hu]
  have hpitch : (u.ctx i).committedPitch = (s.ctx i).committedPitch := by rw [hu]
  have hchoice : u.choosePitch i g = s.choosePitch i g :=
    State.choosePitch_congr hbindings hblocks (hpool.settings i).1 hpitch g
  obtain ⟨hsection, voices, -, hctx⟩ :=
    u.noteStart_spec i attackTime g curve ((State.activeCurve_congr hbindings hblocks).trans hc)
  rw [hchoice, hu] at hctx
  have htctx : t.ctx i = _ := (State.ctx_setCtx_same _ i _).trans (congrArg (fun c => { c with lastFrame := some g }) hctx)
  have hagrees : t.poolAgrees (s.noteRequested i (s.choosePitch i g) (curve.velocity attackTime)) i :=
    (hpool.noteStart attackTime g hc hblocks hbindings hpitch).setCtx_left rfl rfl
  have hnote : s.noteBegun t i g curve attackTime :=
    State.noteBegun_of_poolAgrees hagrees (by rw [htctx]) (by rw [htctx]) (by rw [htctx])
  exact ⟨hnote, by rw [htctx], by rw [htctx], hsection.trans (State.onlySection_setCtx _ i _)⟩

/-- The same, from a state whose performer has been given another state, onset record and timers. -/
theorem State.noteStartKept_setCtx {s u : State} {i : Slot} {curve : Curve} (attackTime : Nat) (g : Gesture)
    (hpool : u.poolAgrees s i) (hblocks : u.blocks = s.blocks) (hu : u.ctx i = s.ctx i) (hc : s.activeCurve i = some curve)
    (state : PerformerState) (onset : Option OnsetRecord) (timers : Timers) :
    let t := (u.setCtx i { s.ctx i with state := state, onset := onset, timers := timers }).noteStartKept i attackTime g
    s.noteBegun t i g curve attackTime ∧ (t.ctx i).timers = { timers with attack := none, glideStep := none } ∧
      (t.ctx i).deferredOnset = (s.ctx i).deferredOnset ∧ u.onlySection t := by
  intro t
  obtain ⟨hnote, htimers, hdeferred, hsection⟩ := State.noteStartKept_noteBegun attackTime g
    (u := u.setCtx i { s.ctx i with state := state, onset := onset, timers := timers })
    (hpool.setCtx_left (by rw [hu]) (by rw [hu])) hblocks hc (State.ctx_setCtx_same u i _)
  exact ⟨hnote, htimers, hdeferred, (State.onlySection_setCtx u i _).trans hsection⟩

/-- What the part has heard is not among the things that allocation requests read. -/
theorem State.poolAgrees_heard (s : State) (i : Slot) : (s.heard .gesture).poolAgrees s i :=
  ⟨rfl, rfl, fun _ _ => rfl, rfl, rfl, rfl, rfl, rfl⟩

namespace State

variable {s : State} {i : Slot} {g : Gesture}

/-! ### The breath judgment in READY (R46 to R48) -/

/-- A frame crosses the onset threshold of a performer with all kinds bound (R46, R47). -/
def crosses (s : State) (i : Slot) (g : Gesture) (curve : Curve) : Prop :=
  (s.ctx i).bindings.allActive = true ∧ s.activeCurve i = some curve ∧ curve.onsetThreshold ≤ g.breath

theorem crosses_congr {t : State} {curve : Curve} (hbindings : (t.ctx i).bindings = (s.ctx i).bindings)
    (hblocks : t.blocks = s.blocks) : t.crosses i g curve ↔ s.crosses i g curve := by
  rw [crosses, crosses, hbindings, State.activeCurve_congr hbindings hblocks]

theorem crosses_setCtx {c : Context} {curve : Curve} (hb : c.bindings = (s.ctx i).bindings) :
    (s.setCtx i c).crosses i g curve ↔ s.crosses i g curve :=
  crosses_congr (t := s.setCtx i c) (by rw [ctx_setCtx_same, hb]) rfl

theorem judgeBreath_crossing {curve : Curve} (hs : (s.ctx i).state = .ready) (h : s.crosses i g curve) :
    s.judgeBreath i g = s.crossing i g := by
  obtain ⟨hbound, hcurve, hbreath⟩ := h
  simp only [judgeBreath, hcurve, hs]
  exact if_pos ⟨hbound, hbreath⟩

theorem judgeBreath_quiet (hs : (s.ctx i).state = .ready) (h : ∀ curve, ¬ s.crosses i g curve) : s.judgeBreath i g = s := by
  cases hcurve : s.activeCurve i with
  | none => simp only [judgeBreath, hcurve]
  | some curve =>
    simp only [judgeBreath, hcurve, hs]
    exact if_neg fun ⟨hbound, hbreath⟩ => h curve ⟨hbound, hcurve, hbreath⟩

theorem crossing_guarded (h : (s.ctx i).timers.guard ≠ none) :
    s.crossing i g = s.setCtx i { s.ctx i with deferredOnset := true } :=
  if_pos (Timer.running_of_ne_none h)

theorem crossing_unguarded (h : (s.ctx i).timers.guard = none) : s.crossing i g = s.beginOnset i g :=
  if_neg (by rw [h]; decide)

/-! ### The taking of a frame without a note (R7) -/

/-- Only the breath of a frame is judged at a performer that was not in a note. -/
theorem takeFrame_outside (h : (s.ctx i).state.inNote = false) :
    s.takeFrame i g = (s.judgeBreath i g).setCtx i { (s.judgeBreath i g).ctx i with lastFrame := some g } := by
  have hexpressed : s.expressed i g = s.judgeBreath i g := by
    simp only [expressed, judged, h, Bool.false_and, Bool.false_eq_true, if_false]
  rw [takeFrame_eq, hexpressed]

section ready

/-! In READY, as a context with the bindings of the performer's is judged. -/

variable {c : Context} {curve : Curve}

theorem takeFrame_quiet (hs : c.state = .ready) (hb : c.bindings = (s.ctx i).bindings) (h : ∀ curve, ¬ s.crosses i g curve) :
    (s.setCtx i c).takeFrame i g = s.setCtx i { c with lastFrame := some g } := by
  have hready : ((s.setCtx i c).ctx i).state = .ready := by rw [ctx_setCtx_same, hs]
  have hquiet : ∀ curve, ¬ (s.setCtx i c).crosses i g curve := fun curve =>
    mt (crosses_setCtx hb).1 (h curve)
  rw [takeFrame_outside (by rw [hready]; rfl), judgeBreath_quiet hready hquiet, ctx_setCtx_same, setCtx_setCtx]

theorem takeFrame_crossing (hs : c.state = .ready) (hb : c.bindings = (s.ctx i).bindings) (h : s.crosses i g curve) :
    (s.setCtx i c).takeFrame i g = ((s.setCtx i c).crossing i g).setCtx i
      { ((s.setCtx i c).crossing i g).ctx i with lastFrame := some g } := by
  have hready : ((s.setCtx i c).ctx i).state = .ready := by rw [ctx_setCtx_same, hs]
  have hcrosses : (s.setCtx i c).crosses i g curve := (crosses_setCtx hb).2 h
  rw [takeFrame_outside (by rw [hready]; rfl), judgeBreath_crossing hready hcrosses]

/-- A crossing is deferred while the guard runs. -/
theorem takeFrame_deferred (hs : c.state = .ready) (hb : c.bindings = (s.ctx i).bindings) (h : s.crosses i g curve)
    (hguard : c.timers.guard ≠ none) :
    (s.setCtx i c).takeFrame i g = s.setCtx i { c with deferredOnset := true, lastFrame := some g } := by
  rw [takeFrame_crossing hs hb h, crossing_guarded (by rwa [ctx_setCtx_same])]
  simp only [ctx_setCtx_same, setCtx_setCtx]

/-- A crossing with an attack window begins ONSET. -/
theorem takeFrame_window (hs : c.state = .ready) (hb : c.bindings = (s.ctx i).bindings) (h : s.crosses i g curve)
    (hguard : c.timers.guard = none) (hwindow : c.settings.attackWindow ≠ 0) :
    (s.setCtx i c).takeFrame i g = s.setCtx i
      { c with
        state := .onset
        onset := some ⟨s.timebase, g.breath⟩
        lastFrame := some g
        timers := { c.timers with attack := Timer.start c.settings.attackWindow, phrase := none } } := by
  rw [takeFrame_crossing hs hb h, crossing_unguarded (by rwa [ctx_setCtx_same]),
    beginOnset_window g (by rwa [ctx_setCtx_same])]
  simp only [ctx_setCtx_same, setCtx_setCtx, setCtx_timebase]

/-- A crossing without an attack window begins the note. -/
theorem takeFrame_prompt (hs : c.state = .ready) (hb : c.bindings = (s.ctx i).bindings) (h : s.crosses i g curve)
    (hguard : c.timers.guard = none) (hwindow : c.settings.attackWindow = 0) : (s.setCtx i c).takeFrame i g =
      (s.setCtx i { c with timers := { c.timers with phrase := none } }).noteStartKept i 0 g := by
  rw [takeFrame_crossing hs hb h, crossing_unguarded (by rwa [ctx_setCtx_same]),
    beginOnset_prompt g (by rwa [ctx_setCtx_same]), noteStartKept]
  simp only [ctx_setCtx_same, setCtx_setCtx]

end ready

/-! ### A frame at its slot (R8, R9) -/

theorem gestureAt_ready (he : (s.ctx i).enabled = true) (hs : (s.ctx i).state = .ready) :
    s.gestureAt i g = (s.setCtx i (s.ctx i).startSilence).takeFrame i g := by
  simp only [gestureAt, he, if_true, hs, updCtx_eq]

theorem gestureAt_onset (he : (s.ctx i).enabled = true) (hs : (s.ctx i).state = .onset) :
    s.gestureAt i g = (s.setCtx i (s.ctx i).startSilence).takeFrame i g := by
  simp only [gestureAt, he, if_true, hs, updCtx_eq]

theorem gestureAt_absent (he : (s.ctx i).enabled = true) (hs : (s.ctx i).state = .absent) :
    s.gestureAt i g = (s.join i).takeFrame i g := by
  simp only [gestureAt, he, if_true, hs]

end State

/-- The context of a performer that has joined: READY, the silence and phrase timers started (R8). -/
def Context.joined (c : Context) : Context :=
  { c with
    state := .ready
    timers := { c.timers with
      silence := Timer.start (16 * c.settings.silenceLimit), phrase := Timer.start (64 * c.settings.phraseGap) } }

theorem State.setCtx_offer (s : State) (i : Slot) (c : Context) (n : Notice) :
    (s.setCtx i c).offer n = (s.offer n).setCtx i c := rfl

theorem State.join_eq {s : State} {i : Slot} (h : (s.ctx i).bindings.noneAtRest = true) :
    s.join i = (s.offer (.performerJoined i)).setCtx i (s.ctx i).joined := by
  have hnone : (s.setCtx i (s.ctx i).joined).applyAll i .atRest = s.setCtx i (s.ctx i).joined :=
    State.applyAll_none _ i .atRest (by rw [State.ctx_setCtx_same]; exact (Bindings.noneAtRest_iff _).1 h)
  rw [← State.setCtx_offer, ← hnone]
  rfl

/-- A crossing without an attack window at a performer in READY begins the note, as seen from any state that agrees on what a
note start reads. -/
theorem State.takeFrame_prompt_noteBegun {s u : State} {i : Slot} {g : Gesture} {curve : Curve} {timers : Timers}
    (hpool : u.poolAgrees s i) (hblocks : u.blocks = s.blocks) (hu : u.ctx i = s.ctx i) (h : s.crosses i g curve)
    (hguard : timers.guard = none) (hwindow : (s.ctx i).settings.attackWindow = 0) :
    let t := (u.setCtx i { s.ctx i with state := .ready, timers := timers }).takeFrame i g
    s.noteBegun t i g curve 0 ∧ (t.ctx i).timers = { timers with attack := none, glideStep := none, phrase := none } ∧
      (t.ctx i).deferredOnset = (s.ctx i).deferredOnset ∧ u.onlySection t := by
  intro t
  obtain ⟨-, hcurve, -⟩ := id h
  have hbindings : (u.ctx i).bindings = (s.ctx i).bindings := by rw [hu]
  have ht : t = _ := State.takeFrame_prompt rfl hbindings.symm ((State.crosses_congr hbindings hblocks).2 h) hguard hwindow
  rw [ht]
  exact State.noteStartKept_setCtx 0 g hpool hblocks hu hcurve .ready (s.ctx i).onset { timers with phrase := none }

/-- Settles O16: the join, and then the frame as in READY. -/
theorem gestureJoins : Obligations.GestureJoins := by
  unfold Obligations.GestureJoins
  intro s i g hhears hrange he hs hrest
  dsimp only
  have htaken : (s.heard .gesture).gestureAt i g =
      (((s.heard .gesture).offer (.performerJoined i)).setCtx i (s.ctx i).joined).takeFrame i g :=
    (State.gestureAt_absent (s := s.heard .gesture) he hs).trans
      (congrArg (State.takeFrame · i g) (State.join_eq (s := s.heard .gesture) hrest))
  rw [exec_gestureCommand i hhears hrange, htaken]
  refine ⟨fun hquiet => ?_, fun curve hcrosses hguard hwindow => ?_, fun curve hcrosses hguard hwindow => ?_⟩
  · rw [State.takeFrame_quiet (s := (s.heard .gesture).offer (.performerJoined i)) (c := (s.ctx i).joined) rfl rfl
      hquiet]
    rfl
  · rw [State.takeFrame_window (s := (s.heard .gesture).offer (.performerJoined i)) (c := (s.ctx i).joined) rfl rfl
      hcrosses hguard hwindow]
    rfl
  · obtain ⟨hnote, htimers, hdeferred, hsection⟩ := State.takeFrame_prompt_noteBegun
      (s := s.offer (.performerJoined i)) ((State.poolAgrees_heard s i).offer (.performerJoined i)) rfl rfl hcrosses
      (timers := (s.ctx i).joined.timers) hguard hwindow
    exact ⟨_, rfl, hnote, htimers, hdeferred, (State.onlySection_offer _ _).trans hsection⟩

/-- Settles O17. -/
theorem gestureCrossesThreshold : Obligations.GestureCrossesThreshold := by
  unfold Obligations.GestureCrossesThreshold
  intro s i g hhears hrange he hs
  dsimp only
  have htaken : (s.heard .gesture).gestureAt i g = ((s.heard .gesture).setCtx i (s.ctx i).startSilence).takeFrame i g :=
    State.gestureAt_ready (s := s.heard .gesture) he hs
  rw [exec_gestureCommand i hhears hrange, htaken]
  refine ⟨fun curve hcrosses hguard hwindow => ?_, fun curve hcrosses hguard => ?_, fun hquiet => ?_⟩
  · rw [State.takeFrame_window (s := s.heard .gesture) (c := (s.ctx i).startSilence) hs rfl hcrosses hguard hwindow]
    rfl
  · rw [State.takeFrame_deferred (s := s.heard .gesture) (c := (s.ctx i).startSilence) hs rfl hcrosses hguard]
    rfl
  · rw [State.takeFrame_quiet (s := s.heard .gesture) (c := (s.ctx i).startSilence) hs rfl hquiet]
    rfl

/-! ### The attack (R49, R50) -/

namespace State

variable {s : State} {i : Slot} {g : Gesture} {c : Context} {curve : Curve} {o : OnsetRecord}

theorem takeFrame_attack (hs : c.state = .onset) (hc : s.activeCurve i = some curve) (hb : c.bindings = (s.ctx i).bindings)
    (hbreath : curve.releaseThreshold ≤ g.breath) : (s.setCtx i c).takeFrame i g =
      ((s.setCtx i c).attackFrame i curve.peakDrop g).setCtx i
        { ((s.setCtx i c).attackFrame i curve.peakDrop g).ctx i with lastFrame := some g } := by
  have honset : ((s.setCtx i c).ctx i).state = .onset := by rw [ctx_setCtx_same, hs]
  have hjudged : (s.setCtx i c).judgeBreath i g = (s.setCtx i c).attackFrame i curve.peakDrop g := by
    simp only [judgeBreath, (activeCurve_setCtx hb).trans hc, honset, if_neg (Nat.not_lt.2 hbreath)]
  rw [takeFrame_outside (by rw [honset]; rfl), hjudged]

theorem attackFrame_peak (honset : (s.ctx i).onset = some o) {peakDrop : Nat}
    (hpeak : g.breath + peakDrop ≤ max o.maxBreath g.breath) : s.attackFrame i peakDrop g =
      (s.setCtx i { s.ctx i with onset := none, timers := { (s.ctx i).timers with attack := none } }).noteStart i
        (s.age o.time) g := by
  simp only [attackFrame, honset, hpeak, if_true, updCtx_eq]

theorem attackFrame_rising (honset : (s.ctx i).onset = some o) {peakDrop : Nat}
    (hrising : max o.maxBreath g.breath < g.breath + peakDrop) : s.attackFrame i peakDrop g =
      s.setCtx i { s.ctx i with onset := some ⟨o.time, max o.maxBreath g.breath⟩ } := by
  simp only [attackFrame, honset, if_neg (Nat.not_le.2 hrising), updCtx_eq]

theorem setMgmt_setCtx (s : State) (m : Management) (i : Slot) (c : Context) :
    (s.setMgmt m).setCtx i c = (s.setCtx i c).setMgmt m := rfl

/-- What applying staged bindings changes: the performer's bindings and the notice queue. -/
theorem applyAll_frame (s : State) (i : Slot) (timing : StagedTiming) : s.applyAll i timing =
    (s.setCtx i { s.ctx i with bindings := (s.ctx i).bindings.appliedAll timing }).setMgmt
      (s.applyAll i timing).mgmt := by
  have hsection : s.applyAll i timing = _ := s.onlySection_applyAll i timing
  have hmgmt : (s.applyAll i timing).mgmt = { s.mgmt with
      notices := (s.applyAll i timing).mgmt.notices
      noticesDropped := (s.applyAll i timing).mgmt.noticesDropped } := congrArg State.mgmt hsection
  rw [s.applyAll_contexts i timing, s.applyAll_voices i timing, ← hmgmt] at hsection
  exact hsection

theorem applyAll_setCtx_mgmt (timing : StagedTiming) (hb : c.bindings = (s.ctx i).bindings) :
    ((s.setCtx i c).applyAll i timing).mgmt = (s.applyAll i timing).mgmt :=
  State.applyAll_mgmt_congr timing (by rw [ctx_setCtx_same, hb]) rfl

theorem applyAll_setCtx (timing : StagedTiming) (hb : c.bindings = (s.ctx i).bindings) :
    (s.setCtx i c).applyAll i timing =
      (s.setCtx i { c with bindings := c.bindings.appliedAll timing }).setMgmt (s.applyAll i timing).mgmt := by
  rw [applyAll_frame, ctx_setCtx_same, setCtx_setCtx, applyAll_setCtx_mgmt timing hb]

/-- A ghost drops the onset: READY, the phrase timer started, the staged AT REST bindings applied. -/
theorem ghost_eq (s : State) (i : Slot) : s.ghost i =
    (s.setCtx i
      { s.ctx i with
        state := .ready
        onset := none
        bindings := (s.ctx i).bindings.appliedAll .atRest
        timers := { (s.ctx i).timers with
          attack := none, phrase := Timer.start (64 * (s.ctx i).settings.phraseGap) } }).setMgmt
      (s.applyAll i .atRest).mgmt := by
  have hentered : s.ghost i = (s.setCtx i
      { s.ctx i with
        state := .ready
        onset := none
        timers := { (s.ctx i).timers with
          attack := none, phrase := Timer.start (64 * (s.ctx i).settings.phraseGap) } }).applyAll i .atRest := by
    simp only [ghost, enterReady, updCtx_eq, ctx_setCtx_same, setCtx_setCtx, Context.startPhrase, Context.withTimers]
  exact hentered.trans (applyAll_setCtx .atRest rfl)

theorem takeFrame_ghost (hs : c.state = .onset) (hc : s.activeCurve i = some curve) (hb : c.bindings = (s.ctx i).bindings)
    (hbreath : g.breath < curve.releaseThreshold) : (s.setCtx i c).takeFrame i g =
      (s.setCtx i
        { c with
          state := .ready
          onset := none
          lastFrame := some g
          bindings := c.bindings.appliedAll .atRest
          timers := { c.timers with attack := none, phrase := Timer.start (64 * c.settings.phraseGap) } }).setMgmt
        (s.applyAll i .atRest).mgmt := by
  have honset : ((s.setCtx i c).ctx i).state = .onset := by rw [ctx_setCtx_same, hs]
  have hjudged : (s.setCtx i c).judgeBreath i g = (s.setCtx i c).ghost i := by
    simp only [judgeBreath, (activeCurve_setCtx hb).trans hc, honset, if_pos hbreath]
  rw [takeFrame_outside (by rw [honset]; rfl), hjudged, ghost_eq, applyAll_setCtx_mgmt .atRest hb]
  simp only [ctx_setMgmt, ctx_setCtx_same, setMgmt_setCtx, setCtx_setCtx]

/-- A peak begins the note with the attack time measured from the onset. -/
theorem takeFrame_peak (hs : c.state = .onset) (hc : s.activeCurve i = some curve) (hb : c.bindings = (s.ctx i).bindings)
    (honset : c.onset = some o) (hbreath : curve.releaseThreshold ≤ g.breath)
    (hpeak : g.breath + curve.peakDrop ≤ max o.maxBreath g.breath) : (s.setCtx i c).takeFrame i g =
      (s.setCtx i { c with onset := none, timers := { c.timers with attack := none } }).noteStartKept i (s.age o.time) g := by
  rw [takeFrame_attack hs hc hb hbreath, attackFrame_peak (by rw [ctx_setCtx_same, honset]) hpeak, ctx_setCtx_same,
    setCtx_setCtx]
  rfl

/-- A frame that is neither a peak nor a ghost only raises the maximum. -/
theorem takeFrame_rising (hs : c.state = .onset) (hc : s.activeCurve i = some curve) (hb : c.bindings = (s.ctx i).bindings)
    (honset : c.onset = some o) (hbreath : curve.releaseThreshold ≤ g.breath)
    (hrising : max o.maxBreath g.breath < g.breath + curve.peakDrop) : (s.setCtx i c).takeFrame i g =
      s.setCtx i { c with onset := some ⟨o.time, max o.maxBreath g.breath⟩, lastFrame := some g } := by
  rw [takeFrame_attack hs hc hb hbreath, attackFrame_rising (by rw [ctx_setCtx_same, honset]) hrising]
  simp only [ctx_setCtx_same, setCtx_setCtx]

end State

/-- Settles O18: by what the frame is to the attack. -/
theorem gestureStartsNote : Obligations.GestureStartsNote := by
  unfold Obligations.GestureStartsNote
  intro s i g curve hhears hrange he hc
  dsimp only
  have hcurve : (s.heard .gesture).activeCurve i = some curve := hc
  have honset (hs : (s.ctx i).state = .onset) : exec (gestureCommand i g) s =
      .next (((s.heard .gesture).setCtx i (s.ctx i).startSilence).takeFrame i g) :=
    (exec_gestureCommand i hhears hrange).trans
      (congrArg Host.Outcome.next (State.gestureAt_onset (s := s.heard .gesture) he hs))
  refine ⟨fun o hs ho hbreath hpeak => ?peak, fun o hs ho hbreath hrising => ?rising, fun hs hbreath => ?ghost,
    fun hs hbound hguard hwindow hbreath => ?prompt⟩
  case peak =>
    have htaken := State.takeFrame_peak (s := s.heard .gesture) (c := (s.ctx i).startSilence) hs hcurve rfl ho hbreath hpeak
    exact ⟨_, (honset hs).trans (congrArg Host.Outcome.next htaken),
      State.noteStartKept_setCtx (s.age o.time) g (State.poolAgrees_heard s i) rfl rfl hc (s.ctx i).state none
        { (s.ctx i).startSilence.timers with attack := none }⟩
  case rising =>
    rw [honset hs, State.takeFrame_rising (s := s.heard .gesture) (c := (s.ctx i).startSilence) hs hcurve rfl ho hbreath
      hrising]
    rfl
  case ghost =>
    rw [honset hs, State.takeFrame_ghost (s := s.heard .gesture) (c := (s.ctx i).startSilence) hs hcurve rfl hbreath,
      State.applyAll_mgmt_congr (s := s.heard .gesture) (t := s) .atRest rfl rfl]
    rfl
  case prompt =>
    have htaken := (exec_gestureCommand i hhears hrange).trans
      (congrArg Host.Outcome.next (State.gestureAt_ready (s := s.heard .gesture) he hs))
    have hsilence : (s.ctx i).startSilence =
        { s.ctx i with state := .ready, timers := (s.ctx i).startSilence.timers } := by rw [← hs]; rfl
    have hbegun := State.takeFrame_prompt_noteBegun (g := g) (State.poolAgrees_heard s i) rfl rfl ⟨hbound, hc, hbreath⟩
      (timers := (s.ctx i).startSilence.timers) hguard hwindow
    rw [← hsilence] at hbegun
    exact ⟨_, htaken, hbegun⟩

end Sys2Proof.Machine
end

section
/-! PROOFS. A GESTURE frame in SOUNDING or SETTLING at or above the release threshold: the settle window, the commit and the
expression (R31 to R35, R57 to R60, R84). -/

namespace Sys2Proof.Machine

/-! ### Expression (R60, R84) -/

/-- The flags of a voice after a frame that follows another has been expressed. -/
def Flags.expressed (f : Flags) (curve : Curve) (g l : Gesture) : Flags :=
  ⟨f.pitch || curve.lipBend g != curve.lipBend l, f.level || curve.noteLevel g != curve.noteLevel l,
    f.timbre || curve.timbre g != curve.timbre l⟩

/-- The flags with one of them set under a condition. -/
def Flags.raised (f : Flags) (x : UpdateFlag) (b : Bool) : Flags :=
  match x with
  | .pitch => { f with pitch := f.pitch || b }
  | .level => { f with level := f.level || b }
  | .timbre => { f with timbre := f.timbre || b }

/-- A frame has been expressed by the SOUNDING voices of a note and kept. -/
def State.expressKept (s t : State) (i : Slot) (curve : Curve) (g l : Gesture) : Prop :=
  t = { s.setCtx i { s.ctx i with lastFrame := some g } with voices := t.voices } ∧
    ∀ v, t.voice v =
      if v ∈ (s.ctx i).noteVoices ∧ (s.voice v).state = .sounding then
        { s.voice v with flags := (s.voice v).flags.expressed curve g l }
      else s.voice v

namespace State

variable {s : State} {i : Slot} {g l : Gesture} {curve : Curve}

theorem express_flags (hc : s.activeCurve i = some curve) (hl : (s.ctx i).lastFrame = some l) : s.express i g =
    ((s.flagIf i .level (curve.noteLevel g != curve.noteLevel l)).flagIf i .timbre
      (curve.timbre g != curve.timbre l)).flagIf i .pitch (curve.lipBend g != curve.lipBend l) := by
  simp only [express, hc, hl]

theorem express_frame (hc : s.activeCurve i = some curve) (hl : (s.ctx i).lastFrame = some l) :
    s.express i g = { s with voices := (s.express i g).voices } := by
  rw [express_flags hc hl, flagIf_eq, flagIf_eq, flagIf_eq]
  rfl

/-- A set-flag request under a condition at a SOUNDING voice. -/
theorem flagged_if_sounding {r : Voice} (h : r.state = .sounding) (x : UpdateFlag) (b : Bool) :
    (if b = true then r.flagged x else r) = { r with flags := r.flags.raised x b } := by
  cases b with
  | true => cases x <;> simp [Voice.flagged_of_sounding _ h, Flags.put, Flags.raised]
  | false => cases x <;> simp [Flags.raised]

theorem voice_express (hc : s.activeCurve i = some curve) (hl : (s.ctx i).lastFrame = some l) (v : VoiceId) :
    (s.express i g).voice v =
      if v ∈ (s.ctx i).noteVoices ∧ (s.voice v).state = .sounding then
        { s.voice v with flags := (s.voice v).flags.expressed curve g l }
      else s.voice v := by
  simp only [express_flags hc hl, flagIf_eq, voice_mapVoices, ctx_mapVoices]
  by_cases hmem : v ∈ (s.ctx i).noteVoices
  · by_cases hsounding : (s.voice v).state = .sounding
    · simp only [hmem, hsounding, and_true, if_true, flagged_if_sounding]
      rfl
    · simp only [hsounding, and_false, if_false, Voice.flagged_of_not_sounding _ _ hsounding, ite_self]
  · simp only [hmem, and_false, false_and, if_false]

/-- A frame expressed by a note and then kept. -/
theorem expressKept_express (hc : s.activeCurve i = some curve) (hl : (s.ctx i).lastFrame = some l) :
    s.expressKept ((s.express i g).setCtx i { (s.express i g).ctx i with lastFrame := some g }) i curve g l := by
  rw [express_ctx]
  exact ⟨congrArg (State.setCtx · i { s.ctx i with lastFrame := some g }) (express_frame hc hl), voice_express hc hl⟩

/-! ### The pattern (R31 to R35) -/

theorem patternChange_iff {c : Context} (hl : c.lastFrame = some l) :
    c.patternChange g = true ↔ l.keys ≠ g.keys ∨ l.octave ≠ g.octave := by
  simp [Context.patternChange, hl]

theorem judgePattern_same (h : ¬ (s.ctx i).patternChange g = true) : s.judgePattern i g = s := if_neg h

section changed

variable {c : Context} (hs : c.state = .sounding ∨ c.state = .settling) (hchange : c.patternChange g = true)

include hs hchange

/-- A pattern change opens the settle window, or starts it again. -/
theorem judgePattern_window (hsettle : c.settings.settleTime ≠ 0) : (s.setCtx i c).judgePattern i g = s.setCtx i
    { c with
      state := .settling
      candidate := if c.state = .sounding then true else c.candidate
      timers := { c.timers with settle := Timer.start c.settings.settleTime } } := by
  rcases hs with hs | hs
  · simp only [judgePattern, ctx_setCtx_same, hchange, hs, hsettle, if_true, if_false, updCtx_eq, setCtx_setCtx]
  · simp only [judgePattern, ctx_setCtx_same, hchange, hs, hsettle, if_true, if_false, updCtx_eq, setCtx_setCtx,
      reduceCtorEq]
    rw [← hs]
    rfl

/-- A pattern change without a settle time closes the window and commits. -/
theorem judgePattern_commit (hsettle : c.settings.settleTime = 0) : (s.setCtx i c).judgePattern i g =
    (s.setCtx i (if c.state = .settling then c.closeWindow else c)).settleCommit i g := by
  rcases hs with hs | hs <;>
    simp only [judgePattern, ctx_setCtx_same, hchange, hs, hsettle, if_true, updCtx_eq, setCtx_setCtx, reduceCtorEq, if_false]

end changed

/-- A commit at a performer with a note leaves it a note, and its bindings as they are. -/
theorem settleCommit_keeps {n : NoteRecord} (g : Gesture) (hn : (s.ctx i).note = some n) :
    ((s.settleCommit i g).ctx i).note ≠ none ∧ ((s.settleCommit i g).ctx i).bindings = (s.ctx i).bindings := by
  have hkept : (s.ctx i).note ≠ none := by rw [hn]; exact nofun
  unfold settleCommit
  split
  · exact ⟨hkept, rfl⟩
  · next p _ =>
    split
    · exact ⟨hkept, rfl⟩
    · obtain ⟨-, zone, voices, glide, timer, hctx, -⟩ := s.transition_spec i p n hn
      rw [updCtx_eq, ctx_setCtx_same, hctx]
      exact ⟨nofun, rfl⟩

/-! ### The taking of a frame in a note (R7) -/

/-- A frame that does not release the note is judged for its pattern and then expressed, when the note is still there. -/
theorem takeFrame_inNote (hs : (s.ctx i).state = .sounding ∨ (s.ctx i).state = .settling)
    (hc : s.activeCurve i = some curve) (hbreath : curve.releaseThreshold ≤ g.breath)
    (hnote : ((s.judgePattern i g).ctx i).note ≠ none) : s.takeFrame i g =
      ((s.judgePattern i g).express i g).setCtx i { ((s.judgePattern i g).express i g).ctx i with lastFrame := some g } := by
  have hin : (s.ctx i).state.inNote = true := by
    rcases hs with hs | hs <;> rw [hs] <;> rfl
  have hbreathed : s.judgeBreath i g = s := by
    rcases hs with hs | hs <;> simp only [judgeBreath, hc, hs, if_neg (Nat.not_lt.2 hbreath)]
  have hjudged : s.judged i g = s.judgePattern i g := by
    simp only [judged, hbreathed, hin, Bool.and_self, if_true]
  have hexpressed : s.expressed i g = (s.judgePattern i g).express i g := by
    simp only [expressed, hjudged, hin, Option.isSome_iff_ne_none.2 hnote, Bool.and_self, if_true]
  rw [takeFrame_eq, hexpressed]

section taken

variable {c : Context} (hs : c.state = .sounding ∨ c.state = .settling) (hc : s.activeCurve i = some curve)
  (hb : c.bindings = (s.ctx i).bindings) (hbreath : curve.releaseThreshold ≤ g.breath)

include hs hc hb hbreath

/-- What is taken of a frame in a note, from what its pattern leaves. -/
theorem takeFrame_expressKept {u : State} (hpattern : (s.setCtx i c).judgePattern i g = u) (hnote : (u.ctx i).note ≠ none)
    (hbindings : (u.ctx i).bindings = c.bindings) (hblocks : u.blocks = s.blocks) (hl : (u.ctx i).lastFrame = some l) :
    u.expressKept ((s.setCtx i c).takeFrame i g) i curve g l := by
  have hcurve : u.activeCurve i = some curve := (State.activeCurve_congr (hbindings.trans hb) hblocks).trans hc
  subst hpattern
  rw [takeFrame_inNote (by rwa [ctx_setCtx_same]) ((activeCurve_setCtx hb).trans hc) hbreath hnote]
  exact expressKept_express hcurve hl

theorem takeFrame_setCtx_expressKept {d : Context} (hpattern : (s.setCtx i c).judgePattern i g = s.setCtx i d)
    (hnote : d.note ≠ none) (hbindings : d.bindings = c.bindings) (hl : d.lastFrame = some l) :
    (s.setCtx i d).expressKept ((s.setCtx i c).takeFrame i g) i curve g l := by
  have hd : (s.setCtx i d).ctx i = d := s.ctx_setCtx_same i d
  exact takeFrame_expressKept hs hc hb hbreath hpattern (by rwa [hd]) (by rwa [hd]) rfl (by rwa [hd])

/-- A frame whose pattern commits at once, from what the commit leaves. -/
theorem takeFrame_commit_expressKept {d : Context} (hpattern : (s.setCtx i c).judgePattern i g = (s.setCtx i d).settleCommit i g)
    (hnote : d.note ≠ none) (hbindings : d.bindings = c.bindings) (hl : d.lastFrame = some l) :
    ((s.setCtx i d).settleCommit i g).expressKept ((s.setCtx i c).takeFrame i g) i curve g l := by
  have hd : (s.setCtx i d).ctx i = d := s.ctx_setCtx_same i d
  obtain ⟨n, hn⟩ := Option.ne_none_iff_exists'.1 hnote
  obtain ⟨hnoted, hbound⟩ := settleCommit_keeps (s := s.setCtx i d) g (by rw [hd, hn])
  rw [hd] at hbound
  have hsection : (s.setCtx i d).settleCommit i g = _ := (s.setCtx i d).onlySection_settleCommit i g
  have hblocks := congrArg State.blocks hsection
  exact takeFrame_expressKept hs hc hb hbreath hpattern hnoted (hbound.trans hbindings) hblocks
    (by rw [settleCommit_lastFrame, hd, hl])

end taken

end State

/-- Settles O20: by the pattern and the settle time. -/
theorem gestureInSoundingNote : Obligations.GestureInSoundingNote := by
  unfold Obligations.GestureInSoundingNote
  intro s i g l curve hhears hrange he hs hnote hc hbreath hl
  dsimp only
  have hstart : (s.heard .gesture).gestureAt i g = ((s.heard .gesture).setCtx i (s.ctx i).startSilence).takeFrame i g :=
    State.gestureAt_inNote (s := s.heard .gesture) g he hs
  rw [exec_gestureCommand i hhears hrange, hstart]
  refine ⟨fun hsame => ?same, fun hchange hsettle => ?window, fun hchange hsettle => ?commit⟩
  case same =>
    have hunchanged : ¬ (s.ctx i).startSilence.patternChange g = true := mt (State.patternChange_iff hl).1 hsame
    exact ⟨_, rfl, State.takeFrame_setCtx_expressKept (s := s.heard .gesture) (c := (s.ctx i).startSilence) hs hc rfl
      hbreath (State.judgePattern_same (by rwa [State.ctx_setCtx_same])) hnote rfl hl⟩
  case window =>
    exact ⟨_, rfl, State.takeFrame_setCtx_expressKept (s := s.heard .gesture) (c := (s.ctx i).startSilence) hs hc rfl
      hbreath (State.judgePattern_window hs ((State.patternChange_iff hl).2 hchange) hsettle) hnote rfl hl⟩
  case commit =>
    have hpattern := State.judgePattern_commit (s := s.heard .gesture) (i := i) (c := (s.ctx i).startSilence) hs
      ((State.patternChange_iff hl).2 hchange) hsettle
    refine ⟨_, _, rfl, State.settleCommit_commits _ i g, State.takeFrame_commit_expressKept (s := s.heard .gesture)
      (c := (s.ctx i).startSilence) hs hc rfl hbreath hpattern ?note ?bindings ?frame⟩
    case note => split <;> exact hnote
    case bindings => split <;> rfl
    case frame => split <;> exact hl

end Sys2Proof.Machine
end
